-- ==== Sys2Proof/Word.lean ====
section
/-! DEFINITION. The block's word types. Every value is unsigned and bit 0 is the least significant bit (rule R8). -/

namespace Sys2Proof

/-- A command word `cmd[31:0]` (rule R80). -/
abbrev Word := BitVec 32

/-- A count of clock ticks: the pause operand of `STEP` and the counter `PACE` (rules R24, R82). -/
abbrev Ticks := BitVec 30

/-- A phase vector: slot `i` is bit `i` (rule R54). -/
abbrev PhaseVector := BitVec 4

/-- An address of the phase ROM, 0 to 7 (rule R50). -/
abbrev RomAddr := BitVec 3

end Sys2Proof
end

