-- ==== Sys2Proof/Config.lean ====
section
/-! DEFINITION. What is fixed outside the state: the open parameter `LINE_RESET`, and the free values of the input pins. -/

namespace Sys2Proof

/-- The input pins sampled at one edge (rule R29; `clk` is the edge itself). -/
structure Inputs where
  /-- `rst`: synchronous reset, active high (rule R180). -/
  rst : Bool
  /-- `cmd_valid`: the host presents a command (rule R91). -/
  cmdValid : Bool
  /-- `cmd[31:0]`: the word presented (rule R80). -/
  cmd : Word
  /-- `cancel`: the external interrupt (rule R156). -/
  cancel : Bool
  /-- `line_err[3:0]`: bit `i` says that line `i` cannot be driven at this edge (rule R153). -/
  lineErr : BitVec 4
  deriving DecidableEq, Repr, Inhabited

/-- `LINE_RESET`, the level of the lines after reset: OPEN, any 4-bit value (rules R7, R35). It has no body, so what is
proved holds for all 16 values. Log entry 2: DESIGN CHOICE, safe for every value. -/
opaque Config.lineReset : BitVec 4

/-- The input pins at the `n`-th edge where nothing is scheduled: free inputs of every edge (rule R11). It has no body.
Log entry 1: DESIGN CHOICE, safe. -/
opaque Config.freeInput : Nat → Inputs

end Sys2Proof
end

