-- ==== Sys2Proof/Machine/State.lean ====
section
/-! DEFINITION. The complete state of the block (rule R20), its value after reset (rule R35), and the reasons a step can stop. -/

namespace Sys2Proof.Machine

/-- The source's enum of directions; `DIR = 0` is Clockwise, `DIR = 1` is CounterClockwise (rules R14, R21). -/
inductive Direction where
  | clockwise
  | counterClockwise
  deriving DecidableEq, Repr

/-- The names of the response codes (rule R151); 0b110 and 0b111 are never produced and have none. -/
inductive ResponseCode where
  | ok
  | configErr
  | ioErr
  | illegalCmd
  | cancelled
  | stateErr
  deriving DecidableEq, Repr

/-- The event of one `LineWrite(line, level)`: "asserted high" if `level`, "asserted low" otherwise (rules R10, R57). -/
structure LineEvent where
  line : Fin 4
  level : Bool
  deriving DecidableEq, Repr

/-- The state between two edges. The first nine fields are the tuple of rule R20; the last three are the model's own. -/
structure State where
  /-- `CFG`: a Stepper has been constructed and not released (rule R26). -/
  cfg : Bool
  /-- `DIR`: the configured direction (rule R21). -/
  dir : Direction
  /-- `CUR`: the index of the phase the next `STEP` will emit (rule R22). -/
  cur : BitVec 2
  /-- `LINE`: the output latch (rule R23). -/
  line : PhaseVector
  /-- `PACE`: ticks left of the pause; the block is busy while it is not 0 (rule R24). -/
  pace : Ticks
  /-- `FLT`: sticky fault flags (rule R28). -/
  flt : BitVec 3
  /-- `RSPV`: a response is on the pins in this cycle (rule R27). -/
  rspv : Bool
  /-- `RSPC`: its code (rules R27, R151). -/
  rspc : BitVec 3
  /-- `RSPI`: its info (rules R27, R151). -/
  rspi : BitVec 2
  /-- The `LineWrite` events of the last edge, in order; the model's own, read by no rule (log entry 3: DESIGN CHOICE, safe). -/
  events : List LineEvent
  /-- The input pins coming edges will sample, the next edge's first; the model's own (log entry 1: DESIGN CHOICE, safe). -/
  script : List Inputs
  /-- The number of edges taken; picks the free input of an edge the script does not reach (log entry 1: DESIGN CHOICE, safe). -/
  edge : Nat
  deriving DecidableEq, Repr

/-- The reasons the machine stops with a fault: NONE. Every fault the spec gives the block is a response after which it goes
on (rules R158, R159), and `Tick` is total (rule R92), so this type has no constructor and nobody raises it (log entry 14: DEDUCED, safe). -/
inductive Fault where
  deriving DecidableEq, Repr

/-- The reasons a step is refused. -/
inductive Refusal where
  /-- Raised only by an arm of `exec` that has no meaning yet; safe (the model stops). No arm of this model raises it. -/
  | notModelled (mnemonic : String)
  deriving DecidableEq, Repr

/-- `ResetState` for a given `LINE_RESET` (rule R35), with nothing scheduled on the input pins (log entry 1: DESIGN CHOICE, safe). -/
def State.resetWith (lineReset : PhaseVector) : State where
  cfg := false
  dir := .clockwise
  cur := 0#2
  line := lineReset
  pace := 0#30
  flt := 0b000#3
  rspv := false
  rspc := 0b000#3
  rspi := 0b00#2
  events := []
  script := []
  edge := 0

/-- The machine right after reset (rule R35): `LINE` holds the open parameter `LINE_RESET`. -/
def State.reset : State := State.resetWith Config.lineReset

end Sys2Proof.Machine
end

