-- ==== Sys2Proof/Machine/Flags.lean ====
section
/-! DEFINITION. The response codes as bits and the sticky flags they set: the table of rule R151. -/

namespace Sys2Proof.Machine

/-- `rsp_code` of each response (rule R151). -/
def ResponseCode.bits : ResponseCode → BitVec 3
  | .ok => 0b000#3
  | .configErr => 0b001#3
  | .ioErr => 0b010#3
  | .illegalCmd => 0b011#3
  | .cancelled => 0b100#3
  | .stateErr => 0b101#3

/-- The sticky flag of each response as a mask of `FLT`; `OK` and `CANCELLED` have none (rules R28, R151). -/
def ResponseCode.stickyFlag : ResponseCode → BitVec 3
  | .ok => 0b000#3
  | .configErr => 0b001#3
  | .ioErr => 0b010#3
  | .illegalCmd => 0b100#3
  | .cancelled => 0b000#3
  | .stateErr => 0b100#3

end Sys2Proof.Machine
end

