-- ==== Sys2Proof/Machine/Operands.lean ====
section
/-! DEFINITION. Operand forms: the direction tag (rules R81, R84), the ROM address (rule R51), and the lowest failing line
of the input `line_err` (rule R121). The pause operand is used as it stands (rule R84). -/

namespace Sys2Proof.Machine

/-- The bit `DIR` of a direction (rule R21). -/
def Direction.bit : Direction → BitVec 1
  | .clockwise => 0#1
  | .counterClockwise => 1#1

/-- The direction whose bit is `b` (rule R21). -/
def Direction.ofBit (b : Bool) : Direction := if b then .counterClockwise else .clockwise

/-- The direction of a `CONFIG` tag, `DIR <- dirtag[0]`; none for the tags with `dirtag[1] = 1`, which are not in the phase
table (rules R81, R140). -/
def directionOfTag (dirtag : BitVec 2) : Option Direction :=
  if dirtag.getLsbD 1 then none else some (Direction.ofBit (dirtag.getLsbD 0))

/-- ROM address formation `a = DIR, i` by concatenation, `4 * d + i` (rule R51). -/
def romAddress (d : Direction) (i : BitVec 2) : RomAddr := d.bit ++ i

/-- The least `i` in 0..3 with `line_err[i] = 1`, or 4 if there is none (rule R121). -/
def lowestFailingLine (lineErr : BitVec 4) : Nat :=
  if lineErr.getLsbD 0 then 0
  else if lineErr.getLsbD 1 then 1
  else if lineErr.getLsbD 2 then 2
  else if lineErr.getLsbD 3 then 3
  else 4

end Sys2Proof.Machine
end

