-- ==== Sys2Proof/Machine/Rom.lean ====
section
/-! DEFINITION. The phase ROM, the block's only memory: a constant of 8 words of 4 bits (rules R50 to R53), and the two ways
of writing a phase vector (rules R8, R54). -/

namespace Sys2Proof.Machine

/-- ROM contents in address order: addresses 0..3 the Clockwise cycle, 4..7 the CounterClockwise cycle, two independently
stored cycles (rules R52, R53). -/
def phaseRom : Vector PhaseVector 8 :=
  #v[0b0101#4, 0b0110#4, 0b1010#4, 0b1001#4, 0b1001#4, 0b1010#4, 0b0110#4, 0b0101#4]

/-- `MemRead(a, 4)`: the word at address `a`; every address is populated, so a read never faults (rule R51). -/
def memRead (a : RomAddr) : PhaseVector := phaseRom[a.toNat]'a.isLt

/-- The slot list `[s0,s1,s2,s3]` of a word: slot `i` is bit `i` (rules R8, R54). -/
def slotList (v : PhaseVector) : List Bool := [v.getLsbD 0, v.getLsbD 1, v.getLsbD 2, v.getLsbD 3]

end Sys2Proof.Machine
end

