-- ==== Sys2Proof/Machine/Ops.lean ====
section
/-! DEFINITION. The named operations over the state: sampling the input pins, the response registers, raising a fault (the
block's whole "trap entry", rules R151, R158), line writes and the lookup of the next phase. There is no return from a fault,
because nothing is entered (rule R159). -/

namespace Sys2Proof.Machine

/-- The input pins the next edge samples: the schedule's first entry, or a free value past its end (rules R9, R11). -/
def State.pins (s : State) : Inputs := s.script.headD (Config.freeInput s.edge)

/-- `s` with the next edge's input pins set to `inputs`; later edges keep theirs. -/
def State.withPins (s : State) (inputs : Inputs) : State := { s with script := inputs :: s.script.tail }

/-- Time moves past an edge: its pins have been sampled. -/
def State.nextEdge (s : State) : State := { s with script := s.script.tail, edge := s.edge + 1 }

/-- `s` with a command that the next edge accepts: the host presents `w` to an idle block and nothing else happens at that
edge (rule R91; log entry 4: DESIGN CHOICE, safe). -/
def State.presentWord (s : State) (w : Word) : State :=
  { s.withPins ⟨false, true, w, false, 0#4⟩ with pace := 0#30 }

/-- The start of every edge without reset: no response and no line event yet. An edge that calls `respond` overwrites the
response registers; one that does not leaves them 0 (rules R27, R92; log entry 7: DEDUCED, safe). -/
def State.beginEdge (s : State) : State :=
  { s with rspv := false, rspc := 0b000#3, rspi := 0b00#2, events := [] }

/-- `respond(code, info)` (rules R10, R27). -/
def State.respond (s : State) (code : ResponseCode) (info : BitVec 2) : State :=
  { s with rspv := true, rspc := code.bits, rspi := info }

/-- `raise X(info)`: respond with the fault's code and set its sticky flag; the command ends here (rules R10, R151). -/
def State.raise (s : State) (fault : ResponseCode) (info : BitVec 2) : State :=
  { s.respond fault info with flt := s.flt ||| fault.stickyFlag }

/-- The vector `v` with bit `i` set to `b`. -/
def setBit (v : PhaseVector) (i : Fin 4) (b : Bool) : PhaseVector :=
  if b then v ||| (1#4 <<< i.val) else v &&& ~~~(1#4 <<< i.val)

/-- `LineWrite(i, b)`: `LINE[i] <- b`, and the event, also when the level does not change (rules R10, R57). -/
def State.lineWrite (s : State) (i : Fin 4) (b : Bool) : State :=
  { s with line := setBit s.line i b, events := s.events ++ [⟨i, b⟩] }

/-- The line writes of a `STEP` with vector `v` whose lowest failing line is `j`: lines below `j`, in the order 0, 1, 2, 3
(rule R121). -/
def State.writeLines (s : State) (v : PhaseVector) (j : Nat) : State :=
  [(0 : Fin 4), 1, 2, 3].foldl (fun t i => if i.val < j then t.lineWrite i (v.getLsbD i.val) else t) s

/-- `next_phase()`: the vector at the old cursor, and the cursor advanced modulo 4 (rule R110). -/
def State.nextPhase (s : State) : PhaseVector × State :=
  (memRead (romAddress s.dir s.cur), { s with cur := s.cur + 1#2 })

end Sys2Proof.Machine
end

