-- ==== Sys2Proof/Machine/Lifecycle.lean ====
section
/-! DEFINITION. Construction and release of the Stepper: `CONFIG` (rule R140) and `RELEASE` (rule R142). -/

namespace Sys2Proof.Machine

/-- `CONFIG dirtag` (rule R140): `STATE_ERR` if a Stepper exists, then `CONFIG_ERR` with the tag if it names no direction,
else a fresh Stepper. No line is written. -/
def execConfig (dirtag : BitVec 2) (s : State) : Host.Outcome State Fault Refusal :=
  let s0 := s.beginEdge
  if s.cfg = true then .next (s0.raise .stateErr 0#2)
  else
    match directionOfTag dirtag with
    | none => .next (s0.raise .configErr dirtag)
    | some d => .next ({ s0 with dir := d, cur := 0#2, cfg := true }.respond .ok 0#2)

/-- `RELEASE` (rule R142): `STATE_ERR` if there is no Stepper, else only `CFG` is cleared; the lines hold. -/
def execRelease (s : State) : Host.Outcome State Fault Refusal :=
  let s0 := s.beginEdge
  if s.cfg = false then .next (s0.raise .stateErr 0#2)
  else .next ({ s0 with cfg := false }.respond .ok 0#2)

end Sys2Proof.Machine
end

