-- ==== Sys2Proof/Machine/Stepping.lean ====
section
/-! DEFINITION. The command `STEP` (rule R121) and the pace counter's tick (rule R123). -/

namespace Sys2Proof.Machine

/-- `STEP pause`, with `line_err` sampled at this edge (rule R121). The checks come in the order lifecycle, lines (rule R157);
the cursor advance stands when a line fails. -/
def execStep (pause : Ticks) (s : State) : Host.Outcome State Fault Refusal :=
  let s0 := s.beginEdge
  if s.cfg = false then .next (s0.raise .stateErr 0#2)
  else
    let (v, s1) := s0.nextPhase
    let j := lowestFailingLine s.pins.lineErr
    let s2 := s1.writeLines v j
    if j < 4 then .next (s2.raise .ioErr (BitVec.ofNat 2 j))
    else
      let s3 : State := { s2 with pace := pause }
      if pause = 0#30 then .next (s3.respond .ok 0#2) else .next s3

/-- `PaceTick`: what an edge does while the block is busy (rule R123). `cancel` beats completion (rule R157). -/
def paceTick (s : State) : State :=
  let s0 := s.beginEdge
  if s.pins.cancel then { s0 with pace := 0#30 }.respond .cancelled 0#2
  else if s.pace = 1#30 then { s0 with pace := 0#30 }.respond .ok 0#2
  else { s0 with pace := s.pace - 1#30 }

end Sys2Proof.Machine
end

