-- ==== Sys2Proof/Syntax.lean ====
section
/-! DEFINITION. The block's instructions: its three host commands (rules R1, R85). -/

namespace Sys2Proof

/-- One constructor per row of the opcode map (rule R85). An illegal word is no instruction (rule R86). -/
inductive Instr where
  /-- `CONFIG dirtag`: construct a Stepper with a direction (rule R140). -/
  | config (dirtag : BitVec 2)
  /-- `STEP pause`: emit the next phase and hold the block busy for `pause` ticks (rule R121). -/
  | step (pause : Ticks)
  /-- `RELEASE`: release the Stepper (rule R142). -/
  | release
  deriving DecidableEq, Repr

end Sys2Proof
end

