-- ==== Sys2Proof/Machine/Dispatch.lean ====
section
/-! DEFINITION. `Execute` on a well-formed command (rule R87): one arm per constructor of `Instr`. -/

namespace Sys2Proof.Machine

def exec (i : Instr) (s : State) : Host.Outcome State Fault Refusal :=
  match i with
  | .config dirtag => Sys2Proof.Machine.execConfig dirtag s
  | .step pause => Sys2Proof.Machine.execStep pause s
  | .release => Sys2Proof.Machine.execRelease s

end Sys2Proof.Machine
end

