-- ==== Sys2Proof/WellFormed.lean ====
section
/-! DEFINITION. Well-formed command words: the mask and match patterns of rule R85. Every value of `Instr` is well-formed by
its operands' widths (all four tags and all 2^30 pauses are legal operands, rules R82, R86), so the checks are on words. -/

namespace Sys2Proof

/-- A row of the opcode map: a word `w` is the row's command, well-formed, iff `w &&& mask = pattern` (rule R85). -/
structure OpcodeRow where
  mnemonic : String
  mask : Word
  pattern : Word
  deriving DecidableEq, Repr

/-- The row's test of a word (rule R85). -/
def OpcodeRow.accepts (r : OpcodeRow) (w : Word) : Bool := w &&& r.mask == r.pattern

/-- Format C: every bit but `dirtag` is 0. -/
def configRow : OpcodeRow := ⟨"CONFIG", 0xFFFFFFFC#32, 0x00000000#32⟩

/-- Format S: `op = 0b01`, any pause. -/
def stepRow : OpcodeRow := ⟨"STEP", 0xC0000000#32, 0x40000000#32⟩

/-- Format Z: one word. -/
def releaseRow : OpcodeRow := ⟨"RELEASE", 0xFFFFFFFF#32, 0x80000000#32⟩

/-- The complete opcode map (rule R85). -/
def opcodeMap : List OpcodeRow := [configRow, stepRow, releaseRow]

/-- A word is well-formed iff some row of the opcode map accepts it; otherwise it is illegal (rule R86). -/
def wellFormedWord (w : Word) : Bool := opcodeMap.any (·.accepts w)

/-- The row of the opcode map an instruction stands in. -/
def Instr.row : Instr → OpcodeRow
  | .config _ => configRow
  | .step _ => stepRow
  | .release => releaseRow

end Sys2Proof
end

