-- ==== Sys2Proof/Decode.lean ====
section
/-! DEFINITION. Decoding a command word (rule R87), the encoder from the same formats (rule R80), and the reading of an
opcode-table word. Decoding is total on every 32-bit word and independent of state. -/

namespace Sys2Proof

/-- Why a word is illegal: the three classes of rule R86. All of them raise `ILLEGAL_CMD`. -/
inductive IllegalWord where
  /-- `op = 0b11` (rule R86 (a)). -/
  | reservedOpcode
  /-- `op = 0b00` and `cmd[29:2] != 0` (rule R86 (b)). -/
  | configReservedBits
  /-- `op = 0b10` and `cmd[29:0] != 0` (rule R86 (c)). -/
  | releaseReservedBits
  deriving DecidableEq, Repr

/-- `op = cmd[31:30]` (rule R80). -/
def opField (w : Word) : BitVec 2 := w.extractLsb' 30 2

/-- `arg = cmd[29:0]`: the whole operand field, which in format S is `pause` (rules R80, R82). -/
def argField (w : Word) : Ticks := w.extractLsb' 0 30

/-- `rsv = cmd[29:2]` of format C (rule R81). -/
def configReservedField (w : Word) : BitVec 28 := w.extractLsb' 2 28

/-- `dirtag = cmd[1:0]` of format C (rule R81). -/
def dirtagField (w : Word) : BitVec 2 := w.extractLsb' 0 2

/-- `Decode(w)` (rule R87). -/
def decode (w : Word) : Except IllegalWord Instr :=
  if opField w = 0b01#2 then .ok (.step (argField w))
  else if opField w = 0b00#2 then
    if configReservedField w = 0#28 then .ok (.config (dirtagField w)) else .error .configReservedBits
  else if opField w = 0b10#2 then
    if argField w = 0#30 then .ok .release else .error .releaseReservedBits
  else .error .reservedOpcode

/-- The word of an instruction, laid out by the formats of rule R80. -/
def encode : Instr → Word
  | .config dirtag => 0b00#2 ++ 0#28 ++ dirtag
  | .step pause => 0b01#2 ++ pause
  | .release => 0b10#2 ++ 0#30

/-- The command word whose low `nbits` bits are those of `w`, every other bit 0. -/
def tableWord (nbits w : Nat) : Word := BitVec.ofNat 32 (w % 2 ^ nbits)

/-- The instruction the decoder reads from an opcode-table word: commands are one 32-bit word presented in parallel on
`cmd[31:0]` (rule R80), so there is no byte order to apply and no longer instruction. -/
def decodeTableWord (nbits w : Nat) : Option Instr :=
  if nbits ≤ 32 then
    match decode (tableWord nbits w) with
    | .ok i => some i
    | .error _ => none
  else none

end Sys2Proof
end

