-- ==== Sys2Proof/Machine/Edge.lean ====
section
/-! DEFINITION. The choice an edge makes between its four branches (rule R92), the two branches without a command (reset,
nothing presented), the accepted illegal word, and the output pins. -/

namespace Sys2Proof.Machine

/-- The four branches of `Tick` (rule R92). -/
inductive EdgeKind where
  | reset
  | pace
  | command
  | idle
  deriving DecidableEq, Repr

/-- Which branch the next edge takes, in the order of rule R92: reset, busy, command accepted, nothing. -/
def State.edgeKind (s : State) : EdgeKind :=
  if s.pins.rst then .reset
  else if s.pace ≠ 0#30 then .pace
  else if s.pins.cmdValid then .command
  else .idle

/-- An edge with `rst = 1`: `ResetState`, whatever the state before and the other inputs (rule R180). The schedule of the
input pins is not the block's and is not reset. -/
def resetEdge (s : State) : State := { State.reset with script := s.script, edge := s.edge }

/-- An idle edge with no command: no element changes, and no response is on the pins after it (rule R92). -/
def idleEdge (s : State) : State := s.beginEdge

/-- An accepted illegal word raises `ILLEGAL_CMD` and changes nothing else, whichever class of illegal word it is (rules
R86, R154). -/
def illegalCommand (_why : IllegalWord) (s : State) : State := s.beginEdge.raise .illegalCmd 0#2

/-- An outcome of a command, moved past the edge that executed it. -/
def finishEdge : Host.Outcome State Fault Refusal → Host.Outcome State Fault Refusal
  | .next t => .next t.nextEdge
  | .fault r => .fault r
  | .refused r => .refused r

/-- The output pins (rule R29). -/
structure Outputs where
  line : BitVec 4
  busy : Bool
  cmdReady : Bool
  cfg : Bool
  flt : BitVec 3
  rspValid : Bool
  rspCode : BitVec 3
  rspInfo : BitVec 2
  deriving DecidableEq, Repr

/-- The output pins are pure functions of the state (rule R29). -/
def State.outputs (s : State) : Outputs where
  line := s.line
  busy := decide (s.pace ≠ 0#30)
  cmdReady := decide (s.pace = 0#30)
  cfg := s.cfg
  flt := s.flt
  rspValid := s.rspv
  rspCode := s.rspc
  rspInfo := s.rspi

end Sys2Proof.Machine
end

