-- ==== Sys2Proof/Machine/Step.lean ====
section
/-! DEFINITION. The per-edge transition `Tick` (rule R92), and the state whose next edge accepts a given word. -/

namespace Sys2Proof.Machine

/-- One rising edge of `clk`: `Tick(S, in)` with `in` the pins this edge samples (rules R9, R92). -/
def step (s : State) : Host.Outcome State Fault Refusal :=
  match s.edgeKind with
  | .reset => .next (resetEdge s).nextEdge
  | .pace => .next (paceTick s).nextEdge
  | .command =>
    match decode s.pins.cmd with
    | .ok i => finishEdge (exec i s)
    | .error why => .next (illegalCommand why s).nextEdge
  | .idle => .next (idleEdge s).nextEdge

/-- `s` with the host presenting an opcode-table word to an idle block at the next edge (log entry 4: DESIGN CHOICE, safe). -/
def State.withFetchWord (s : State) (nbits w : Nat) : State := s.presentWord (tableWord nbits w)

end Sys2Proof.Machine
end

