-- ==== Sys2Proof/Machine/Assembler.lean ====
section
/-! DEFINITION. The host's assembler (rules R88 to R90): the meaning of a line as a word, and the reading of a line's text.
`TICK_HZ` is OPEN (rule R7) and an argument of every function that needs it (log entry 12: DESIGN CHOICE, safe). -/

namespace Sys2Proof.Machine

/-- A non-negative decimal literal: `digits / 10 ^ scale`, so that `0.01` is exactly 1/100 (rule R90). -/
structure Decimal where
  digits : Nat
  scale : Nat
  deriving DecidableEq, Repr

/-- A line of the assembler: the rows of rules R88 and R89. Operands are as written, not yet checked against their ranges. -/
inductive AsmLine where
  /-- `CONFIG cw` or `CONFIG ccw`. -/
  | config (d : Direction)
  /-- `CONFIG #t`: a raw tag. -/
  | configTag (t : Nat)
  /-- `CONFIG` with no operand. -/
  | configDefault
  /-- `STEP n`, in ticks. -/
  | step (n : Nat)
  /-- `STEP x s`, in seconds. -/
  | stepSeconds (x : Decimal)
  /-- `STEP` with no operand. -/
  | stepDefault
  /-- `RELEASE`. -/
  | release
  /-- `.word w`: any 32-bit value. -/
  | word (w : Nat)
  deriving DecidableEq, Repr

/-- `SecToTicks(x) = ceil(x * TICK_HZ)`, computed exactly (rule R90). -/
def secToTicks (tickHz : Nat) (x : Decimal) : Nat := (x.digits * tickHz + (10 ^ x.scale - 1)) / 10 ^ x.scale

/-- The source's default pause, 0.01 seconds (rules R89, R90). -/
def defaultPause : Decimal := ⟨1, 2⟩

/-- `PAUSE_DEFAULT_TICKS` (rules R7, R90). -/
def pauseDefaultTicks (tickHz : Nat) : Nat := secToTicks tickHz defaultPause

/-- The word of `STEP n`; a count outside 0 to 2^30 - 1 is an assembly error, not truncated (rule R88). -/
def assembleStep (n : Nat) : Option Word := if n < 2 ^ 30 then some (encode (.step (BitVec.ofNat 30 n))) else none

/-- The word a line stands for; none where the assembler refuses the line (rules R88 to R90). -/
def assemble (tickHz : Nat) : AsmLine → Option Word
  | .config d => some (encode (.config (0#1 ++ d.bit)))
  | .configTag t => if t < 4 then some (encode (.config (BitVec.ofNat 2 t))) else none
  | .configDefault => some (encode (.config (0#1 ++ Direction.clockwise.bit)))
  | .step n => assembleStep n
  | .stepSeconds x => assembleStep (secToTicks tickHz x)
  | .stepDefault => assembleStep (pauseDefaultTicks tickHz)
  | .release => some (encode .release)
  | .word w => if w < 2 ^ 32 then some (BitVec.ofNat 32 w) else none

/-! ### The text of a line -/

/-- A letter in lower case: mnemonics and direction names are case-insensitive (rule R88; log entry 11: DESIGN CHOICE, unsafe for claims that a text is refused). -/
def lowerCase (c : Char) : Char := if 'A' ≤ c ∧ c ≤ 'Z' then Char.ofNat (c.toNat + 32) else c

/-- Blanks separate the parts of a line (log entry 11: DESIGN CHOICE, unsafe for claims that a text is refused). -/
def isBlank (c : Char) : Bool := c == ' ' || c == '\t' || c == '\r'

/-- The line up to its comment (rule R88). -/
def dropComment (line : List Char) : List Char := line.takeWhile (· != ';')

/-- The blank-separated parts of a text, put before those already found; `part` is the part being read. -/
def partsFrom : List Char → List Char → List (List Char)
  | part, [] => if part.isEmpty then [] else [part]
  | part, c :: rest =>
    if isBlank c then (if part.isEmpty then partsFrom [] rest else part :: partsFrom [] rest)
    else partsFrom (part ++ [c]) rest

/-- The value of a digit in the given base, if it is one; letters are in lower case. -/
def digitValue (base : Nat) (c : Char) : Option Nat :=
  let v := if '0' ≤ c ∧ c ≤ '9' then c.toNat - 48 else if 'a' ≤ c ∧ c ≤ 'f' then c.toNat - 87 else base
  if v < base then some v else none

/-- The number written by a list of digits, most significant first, after `acc`. -/
def digitsFrom (base : Nat) : Nat → List Char → Option Nat
  | acc, [] => some acc
  | acc, c :: rest =>
    match digitValue base c with
    | some v => digitsFrom base (acc * base + v) rest
    | none => none

/-- A number written with at least one digit. -/
def parseDigits (base : Nat) (cs : List Char) : Option Nat := if cs.isEmpty then none else digitsFrom base 0 cs

/-- A number, decimal or `0x` hexadecimal (rule R88). -/
def parseNumber : List Char → Option Nat
  | '0' :: 'x' :: cs => parseDigits 16 cs
  | cs => parseDigits 10 cs

/-- A non-negative decimal number, with or without a fraction (rule R89). -/
def parseDecimal (cs : List Char) : Option Decimal :=
  let whole := cs.takeWhile (· != '.')
  match cs.drop whole.length with
  | [] => (parseDigits 10 whole).map (⟨·, 0⟩)
  | _ :: fraction =>
    if whole.isEmpty ∨ fraction.isEmpty then none
    else (parseDigits 10 (whole ++ fraction)).map (⟨·, fraction.length⟩)

/-- The operand of `STEP`: ticks, or seconds with the suffix `s` (rules R88, R89). -/
def parsePause (cs : List Char) : Option AsmLine :=
  match cs.getLast? with
  | some 's' => (parseDecimal cs.dropLast).map .stepSeconds
  | _ => (parseNumber cs).map .step

/-- The operand of `CONFIG`: a direction name or `#t` (rule R88). -/
def parseDirection : List Char → Option AsmLine
  | ['c', 'w'] => some (.config .clockwise)
  | ['c', 'c', 'w'] => some (.config .counterClockwise)
  | '#' :: cs => (parseNumber cs).map .configTag
  | _ => none

/-- The line whose lower-case parts are given (rules R88, R89). -/
def parseParts : List (List Char) → Option AsmLine
  | [['c', 'o', 'n', 'f', 'i', 'g']] => some .configDefault
  | [['c', 'o', 'n', 'f', 'i', 'g'], d] => parseDirection d
  | [['s', 't', 'e', 'p']] => some .stepDefault
  | [['s', 't', 'e', 'p'], n] => parsePause n
  | [['s', 't', 'e', 'p'], x, ['s']] => (parseDecimal x).map .stepSeconds
  | [['r', 'e', 'l', 'e', 'a', 's', 'e']] => some .release
  | [['.', 'w', 'o', 'r', 'd'], w] => (parseNumber w).map .word
  | _ => none

/-- What a line of text is: nothing (blank or only a comment), a line, or no line of this assembler. -/
inductive AsmText where
  | empty
  | line (l : AsmLine)
  | syntaxError
  deriving DecidableEq, Repr

/-- Reads one line of text (rules R88, R89; log entry 11: DESIGN CHOICE, unsafe for claims that a text is refused). -/
def parseLine (text : List Char) : AsmText :=
  match partsFrom [] ((dropComment text).map lowerCase) with
  | [] => .empty
  | parts => match parseParts parts with
    | some l => .line l
    | none => .syntaxError

/-- The words of a program's lines in order (rule R88: one command per line). That a refused line leaves the whole program
without words is the model's choice: rules R88 and R90 say only that the line is refused (log entry 15: DESIGN CHOICE, unsafe
for claims that a program has no words). -/
def assembleProgram (tickHz : Nat) : List (List Char) → Option (List Word)
  | [] => some []
  | text :: rest =>
    match parseLine text with
    | .empty => assembleProgram tickHz rest
    | .syntaxError => none
    | .line l =>
      match assemble tickHz l, assembleProgram tickHz rest with
      | some w, some ws => some (w :: ws)
      | _, _ => none

end Sys2Proof.Machine
end

