-- ==== Sys2Proof/Safety.lean ====
section
/-! DEFINITION. What statements about the block are said in: accepted commands, runs of several edges, the invariant of every
reachable state (rule R31), and the lifecycle with its transition table (rule R143). -/

namespace Sys2Proof.Machine

/-! ### The spec's state tuple -/

/-- The tuple `S` of rule R20: the state without the model's own fields. -/
structure Block where
  cfg : Bool
  dir : Direction
  cur : BitVec 2
  line : PhaseVector
  pace : Ticks
  flt : BitVec 3
  rspv : Bool
  rspc : BitVec 3
  rspi : BitVec 2
  deriving DecidableEq, Repr

/-- The spec's state in a state of the model. -/
def State.block (s : State) : Block :=
  ⟨s.cfg, s.dir, s.cur, s.line, s.pace, s.flt, s.rspv, s.rspc, s.rspi⟩

/-- The vector the next `STEP` emits: the ROM word at `DIR, CUR` (rules R22, R110). -/
def State.nextVector (s : State) : PhaseVector := memRead (romAddress s.dir s.cur)

/-! ### Acceptance -/

/-- The next edge accepts a command word, well-formed or not (rule R91). -/
abbrev State.AcceptsWord (s : State) : Prop :=
  s.pins.rst = false ∧ s.pace = 0#30 ∧ s.pins.cmdValid = true

/-- The next edge accepts the command `i` (rules R87, R91). -/
abbrev State.Accepts (s : State) (i : Instr) : Prop := s.AcceptsWord ∧ decode s.pins.cmd = .ok i

/-- The word an accepting edge takes is illegal (rule R86). -/
abbrev State.AcceptsIllegal (s : State) : Prop := s.AcceptsWord ∧ ∀ i, decode s.pins.cmd ≠ .ok i

/-- The next edge accepts a fault-free `STEP` of a configured Stepper (rules R121, R122). -/
abbrev State.Emits (s : State) (pause : Ticks) : Prop :=
  s.Accepts (.step pause) ∧ s.cfg = true ∧ s.pins.lineErr = 0b0000#4

/-! ### Runs -/

/-- `k` edges, stopping where a step does. -/
def run : Nat → State → Host.Outcome State Fault Refusal
  | 0, s => .next s
  | k + 1, s =>
    match step s with
    | .next t => run k t
    | .fault r => .fault r
    | .refused r => .refused r

/-- The pins sampled at the edge `k` edges after the next one; `k = 0` is the next edge. -/
def State.inputAt (s : State) (k : Nat) : Inputs := s.script.getD k (Config.freeInput (s.edge + k))

/-- No reset in the `n` edges that follow the next one. -/
def State.NoResetAfter (s : State) (n : Nat) : Prop := ∀ k, 1 ≤ k → k ≤ n → (s.inputAt k).rst = false

/-- Neither reset nor `cancel` in the `n` edges that follow the next one. -/
def State.Undisturbed (s : State) (n : Nat) : Prop :=
  ∀ k, 1 ≤ k → k ≤ n → (s.inputAt k).rst = false ∧ (s.inputAt k).cancel = false

/-- The next edge accepts a `STEP` of a configured Stepper: a call of `step()`, whether or not a line fails. -/
def State.takesStep (s : State) : Bool :=
  !s.pins.rst && s.pace == 0#30 && s.pins.cmdValid && s.cfg &&
    match decode s.pins.cmd with
    | .ok (.step _) => true
    | _ => false

/-- How many `STEP`s are accepted in the next `n` edges. -/
def stepsTaken : Nat → State → Nat
  | 0, _ => 0
  | n + 1, s =>
    (if s.takesStep then 1 else 0) +
      match step s with
      | .next t => stepsTaken n t
      | _ => 0

/-- The next `n` edges hold neither a reset nor an accepted `RELEASE`: they lie in one configured lifetime. -/
def WithinLifetime : Nat → State → Prop
  | 0, _ => True
  | n + 1, s =>
    s.pins.rst = false ∧ ¬ s.Accepts .release ∧
      match step s with
      | .next t => WithinLifetime n t
      | _ => True

/-! ### The invariant -/

/-- The vector the last `STEP` of this lifetime chose: the one before the cursor in the configured cycle. -/
def State.lastVector (s : State) : PhaseVector := memRead (romAddress s.dir (s.cur - 1#2))

/-- What holds in every reachable state and is kept by every step. -/
structure State.Inv (s : State) : Prop where
  /-- A pause runs only while a Stepper is configured (rule R31 (a)). -/
  pacing_configured : s.pace ≠ 0#30 → s.cfg = true
  /-- During a pause the lines hold the vector of its `STEP` (rules R23, R123). -/
  pacing_vector : s.pace ≠ 0#30 → s.line = s.lastVector
  /-- Without a response, code and info are 0 (rule R31 (b)). -/
  silent_zero : s.rspv = false → s.rspc = 0b000#3 ∧ s.rspi = 0b00#2
  /-- Codes 0b110 and 0b111 are never produced (rule R151). -/
  code_produced : s.rspc ≠ 0b110#3 ∧ s.rspc ≠ 0b111#3
  /-- The info is a refused tag, 2 or 3, with `CONFIG_ERR` (rule R151). -/
  config_err_info : s.rspc = ResponseCode.configErr.bits → s.rspi.getLsbD 1 = true
  /-- The info is 0 with every code but `CONFIG_ERR` and `IO_ERR` (rule R151). -/
  other_info : s.rspc ≠ ResponseCode.configErr.bits → s.rspc ≠ ResponseCode.ioErr.bits → s.rspi = 0b00#2
  /-- A fault on the response port is recorded in its sticky flag (rules R28, R151). -/
  fault_recorded : ∀ x : ResponseCode, s.rspv = true → s.rspc = x.bits → s.flt &&& x.stickyFlag = x.stickyFlag
  /-- A response comes only when the block is idle (rules R121, R123). -/
  response_idle : s.rspv = true → s.pace = 0#30

/-! ### The lifecycle -/

/-- The three states of the lifecycle (rule R143). -/
inductive Lifecycle where
  | unconfigured
  | idle
  | pacing
  deriving DecidableEq, Repr

/-- The lifecycle state, a function of `CFG` and `PACE`; none for the unreachable `CFG = 0, PACE != 0` (rule R143). -/
def State.lifecycle (s : State) : Option Lifecycle :=
  if s.cfg then some (if s.pace = 0#30 then .idle else .pacing)
  else if s.pace = 0#30 then some .unconfigured else none

/-- The events of rule R143's table. -/
inductive LifecycleEvent where
  | reset
  | noCommand
  | illegalWord
  | config (dirtag : BitVec 2)
  | step (pauseIsZero lineFault : Bool)
  | release
  /-- An edge of a pause with `cancel = 0`; `last` if `PACE = 1` before it. -/
  | tick (last : Bool)
  | cancel
  deriving DecidableEq, Repr

/-- The event of the next edge: `rst` first, then the pause, then the command port (rules R92, R143). -/
def State.lifecycleEvent (s : State) : LifecycleEvent :=
  if s.pins.rst then .reset
  else if s.pace ≠ 0#30 then (if s.pins.cancel then .cancel else .tick (s.pace == 1#30))
  else if s.pins.cmdValid then
    match decode s.pins.cmd with
    | .ok (.config dirtag) => .config dirtag
    | .ok (.step pause) => .step (pause == 0#30) (s.pins.lineErr != 0b0000#4)
    | .ok .release => .release
    | .error _ => .illegalWord
  else .noCommand

/-- Rule R143's table of transitions: the next lifecycle state and the response; none where the table has no row. -/
def lifecycleRow : Lifecycle → LifecycleEvent → Option (Lifecycle × Option ResponseCode)
  | _, .reset => some (.unconfigured, none)
  | .unconfigured, .config 0b00#2 => some (.idle, some .ok)
  | .unconfigured, .config 0b01#2 => some (.idle, some .ok)
  | .unconfigured, .config _ => some (.unconfigured, some .configErr)
  | .unconfigured, .step _ _ => some (.unconfigured, some .stateErr)
  | .unconfigured, .release => some (.unconfigured, some .stateErr)
  | .unconfigured, .illegalWord => some (.unconfigured, some .illegalCmd)
  | .unconfigured, .noCommand => some (.unconfigured, none)
  | .idle, .illegalWord => some (.idle, some .illegalCmd)
  | .idle, .config _ => some (.idle, some .stateErr)
  | .idle, .step _ true => some (.idle, some .ioErr)
  | .idle, .step true false => some (.idle, some .ok)
  | .idle, .step false false => some (.pacing, none)
  | .idle, .release => some (.unconfigured, some .ok)
  | .idle, .noCommand => some (.idle, none)
  | .pacing, .tick false => some (.pacing, none)
  | .pacing, .tick true => some (.idle, some .ok)
  | .pacing, .cancel => some (.idle, some .cancelled)
  | _, _ => none

/-- The code on the response port, if a response is there (rule R27). -/
def State.responseBits (s : State) : Option (BitVec 3) := if s.rspv then some s.rspc else none

end Sys2Proof.Machine
end

