-- ==== Sys2Proof/Certificates/Slice0/Obligations.lean ====
section
/-! DEFINITION. The statements for the provers, from the spec's numbered rules. `block` is the spec's state tuple (rule R20);
`events`, `script` and `edge` are the model's own fields (log entries 1 and 3). -/

open Sys2Proof Sys2Proof.Machine

/-! ### Words -/

/-- Words written out in 95_test_vectors.md V-DEC decode as that table says. -/
def Obligations.WrittenWordsDecode : Prop :=
  decode 0b00000000000000000000000000000000#32 = .ok (.config 0b00#2) ∧
  decode 0b00000000000000000000000000000001#32 = .ok (.config 0b01#2) ∧
  decode 0b00000000000000000000000000000011#32 = .ok (.config 0b11#2) ∧
  decode 0b01000000000000000000000000000000#32 = .ok (.step 0#30) ∧
  decode 0b01000000000000000010011100010000#32 = .ok (.step 10000#30) ∧
  decode 0b01111111111111111111111111111111#32 = .ok (.step 1073741823#30) ∧
  decode 0b10000000000000000000000000000000#32 = .ok .release ∧
  decode 0b00100000000000000000000000000000#32 = .error .configReservedBits ∧
  decode 0b10000000000000000000000000000001#32 = .error .releaseReservedBits ∧
  decode 0b11000000000000000000000000000000#32 = .error .reservedOpcode

/-- No bit of an encoding is dropped: decoding the word of any instruction gives it back (rules R80, R87). -/
def Obligations.DecodeOfEncode : Prop := ∀ i : Instr, decode (encode i) = .ok i

/-- Each legal word has one meaning and is the word of it (rules R80, R87). -/
def Obligations.EncodeOfDecode : Prop := ∀ (w : Word) (i : Instr), decode w = .ok i → encode i = w

/-- `Decode` agrees with the mask and match patterns of the opcode map, whose three rows are disjoint (rules R85, R87). -/
def Obligations.OpcodeMapIsDecode : Prop :=
  ∀ w : Word,
    (configRow.accepts w = true ↔ decode w = .ok (.config (w.extractLsb' 0 2))) ∧
    (stepRow.accepts w = true ↔ decode w = .ok (.step (w.extractLsb' 0 30))) ∧
    (releaseRow.accepts w = true ↔ decode w = .ok .release) ∧
    (opcodeMap.filter (·.accepts w)).length ≤ 1 ∧
    (wellFormedWord w = true ↔ ∃ i, decode w = .ok i)

/-- Rules R86 and R154: which words are illegal, and what an accepted one does. -/
def Obligations.IllegalWords : Prop :=
  (∀ w : Word, (∀ i, decode w ≠ .ok i) ↔
    (0xC0000000#32 ≤ w ∨ (w.extractLsb' 30 2 = 0b00#2 ∧ w.extractLsb' 2 28 ≠ 0#28) ∨
      (w.extractLsb' 30 2 = 0b10#2 ∧ w.extractLsb' 0 30 ≠ 0#30))) ∧
  (∀ s : State, s.AcceptsIllegal → ∃ t, step s = .next t ∧
    t.block = { s.block with flt := s.flt ||| 0b100#3, rspv := true, rspc := 0b011#3, rspi := 0b00#2 }) ∧
  decode 0x00000002#32 = .ok (.config 0b10#2) ∧ decode 0x00000003#32 = .ok (.config 0b11#2) ∧
  decode 0x40000000#32 = .ok (.step 0#30)

/-! ### The edge -/

/-- When the word at the command port is accepted and decodes to `i`, the step is `exec i` on this state, after which the
schedule of the pins moves past the edge (rules R87, R91; the schedule is log entry 1). -/
def Obligations.StepRunsDecoded : Prop :=
  ∀ (s : State) (i : Instr), s.Accepts i → step s = finishEdge (exec i s)

/-- An edge always has a next state, which has sampled exactly one entry of the schedule (93_implementation_defined.md, after
U30: `Tick` is total; the schedule is the model's, log entry 1). -/
def Obligations.StepNeverStops : Prop :=
  ∀ s : State, ∃ t, step s = .next t ∧ t.script = s.script.tail ∧ t.edge = s.edge + 1

/-- An idle edge without a command changes nothing but takes the response away (rule R92). -/
def Obligations.IdleEdgeChangesNothing : Prop :=
  ∀ s : State, s.pins.rst = false → s.pace = 0#30 → s.pins.cmdValid = false →
    ∃ t, step s = .next t ∧ t.block = { s.block with rspv := false, rspc := 0b000#3, rspi := 0b00#2 }

/-- Which pins an edge reads (rule R92, last paragraph): with `rst` no other; while busy only `cancel`; idle without a command
none; with a command not `cancel`, and `line_err` only if the command is a `STEP` of a configured Stepper. -/
def Obligations.PinsReadOnlyWhereNamed : Prop :=
  ∀ (s : State) (a b : Inputs), a.rst = b.rst →
    (a.rst = true ∨
      (s.pace ≠ 0#30 ∧ a.cancel = b.cancel) ∨
      (s.pace = 0#30 ∧ a.cmdValid = false ∧ b.cmdValid = false) ∨
      (s.pace = 0#30 ∧ a.cmdValid = b.cmdValid ∧ a.cmd = b.cmd ∧
        (a.lineErr = b.lineErr ∨ s.cfg = false ∨ ∀ p, decode a.cmd ≠ .ok (.step p)))) →
    step (s.withPins a) = step (s.withPins b)

/-- Rule R29: the output pins. -/
def Obligations.OutputPins : Prop :=
  ∀ s : State, s.outputs.line = s.line ∧ (s.outputs.busy = true ↔ s.pace ≠ 0#30) ∧
    (s.outputs.cmdReady = true ↔ s.pace = 0#30) ∧ s.outputs.cmdReady = !s.outputs.busy ∧ s.outputs.cfg = s.cfg ∧
    s.outputs.flt = s.flt ∧ s.outputs.rspValid = s.rspv ∧ s.outputs.rspCode = s.rspc ∧ s.outputs.rspInfo = s.rspi

/-! ### Reset -/

/-- Rule R35: the state after an edge with `rst = 1`, whatever the state before, and the state the model starts in. -/
def Obligations.ResetValues : Prop :=
  (∀ s : State, s.pins.rst = true → ∃ t, step s = .next t ∧ t.block = State.reset.block) ∧
  State.reset.block = ⟨false, .clockwise, 0#2, Config.lineReset, 0#30, 0b000#3, false, 0b000#3, 0b00#2⟩ ∧
  State.reset.outputs.cmdReady = true

/-! ### The phase ROM and the sequencer -/

/-- Rule R52: the ROM's eight words as slot lists, and as one 32-bit constant with word `a` in bits `4a+3..4a`. -/
def Obligations.RomContents : Prop :=
  (List.range 8).map (fun a => slotList (memRead (BitVec.ofNat 3 a))) =
    [[true, false, true, false], [false, true, true, false], [false, true, false, true], [true, false, false, true],
     [true, false, false, true], [false, true, false, true], [false, true, true, false], [true, false, true, false]] ∧
  ∀ a : RomAddr, memRead a = (0x56A99A65#32).extractLsb' (4 * a.toNat) 4

/-- Rule R51: the address of direction `d` and index `i` is `4 * d + i`, and every address is the address of one. -/
def Obligations.RomAddressing : Prop :=
  (∀ (d : Direction) (i : BitVec 2), (romAddress d i).toNat = 4 * d.bit.toNat + i.toNat) ∧
  (∀ a : RomAddr, ∃ d i, romAddress d i = a)

/-- Facts of the table's contents, rule R66 (a) to (d). -/
def Obligations.RomFacts : Prop :=
  (∀ (d : Direction) (i : BitVec 2), memRead (romAddress d i) ∈ [0x5#4, 0x6#4, 0x9#4, 0xA#4]) ∧
  (∀ (d : Direction) (i k : BitVec 2), memRead (romAddress d i) = memRead (romAddress d k) → i = k) ∧
  (∀ i : BitVec 2, memRead (romAddress .counterClockwise i) = memRead (romAddress .clockwise (3#2 - i))) ∧
  (∀ a : RomAddr, (memRead a).getLsbD 1 = !(memRead a).getLsbD 0 ∧ (memRead a).getLsbD 3 = !(memRead a).getLsbD 2) ∧
  (∀ (d : Direction) (i : BitVec 2),
    memRead (romAddress d i) ^^^ memRead (romAddress d (i + 1#2)) = if i.getLsbD 0 then 0xC#4 else 0x3#4)

/-- Slot `i` is bit `i` and line `i`: a line write sets its own line, no other, and is recorded even if the level stays
(rules R54, R57; that events are recorded in a field is log entry 3). -/
def Obligations.LineWriteSetsItsLine : Prop :=
  (∀ (s : State) (i k : Fin 4) (b : Bool),
    (s.lineWrite i b).line.getLsbD k.val = if k = i then b else s.line.getLsbD k.val) ∧
  (∀ (s : State) (i : Fin 4) (b : Bool),
    { (s.lineWrite i b).block with line := s.line } = s.block ∧ (s.lineWrite i b).events = s.events ++ [⟨i, b⟩])

/-- Rule R110: the vector at the old cursor, the cursor advanced modulo 4, nothing else; a `STEP` of a configured Stepper
does it once, whatever its lines do. -/
def Obligations.NextPhase : Prop :=
  (∀ s : State, s.nextPhase.1 = memRead (romAddress s.dir s.cur) ∧ s.nextPhase.2.cur.toNat = (s.cur.toNat + 1) % 4 ∧
    s.nextPhase.2.block = { s.block with cur := s.nextPhase.2.cur }) ∧
  (∀ (s : State) (p : Ticks), s.cfg = true → ∃ t, exec (.step p) s = .next t ∧ t.cur = s.nextPhase.2.cur)

/-- Rule R113: four `next_phase` operations return the cursor to its starting value, in either direction. -/
def Obligations.FourPhasesReturn : Prop :=
  ∀ s : State, s.nextPhase.2.nextPhase.2.nextPhase.2.nextPhase.2.block = s.block

/-! ### CONFIG and RELEASE -/

/-- Rule R36: a `CONFIG` with a direction tag on an unconfigured, idle block completes with a fresh Stepper. -/
def Obligations.ConfigConstructs : Prop :=
  ∀ (s : State) (dirtag : BitVec 2), s.cfg = false → s.pace = 0#30 → dirtag.getLsbD 1 = false →
    ∃ t, exec (.config dirtag) s = .next t ∧
      t.block = { s.block with
        cfg := true, dir := if dirtag.getLsbD 0 then .counterClockwise else .clockwise, cur := 0#2, pace := 0#30,
        rspv := true, rspc := 0b000#3, rspi := 0b00#2 } ∧ t.events = []

/-- Rule R152: where `CONFIG` traps on its operand. -/
def Obligations.ConfigRefusesTag : Prop :=
  ∀ (s : State) (dirtag : BitVec 2), s.cfg = false → dirtag = 0b10#2 ∨ dirtag = 0b11#2 →
    ∃ t, exec (.config dirtag) s = .next t ∧
      t.block = { s.block with flt := s.flt ||| 0b001#3, rspv := true, rspc := 0b001#3, rspi := dirtag } ∧ t.events = []

/-- Rule R142: `RELEASE` completes where a Stepper exists and traps where there is none. -/
def Obligations.ReleaseCommand : Prop :=
  ∀ s : State,
    (s.cfg = true → ∃ t, exec .release s = .next t ∧
      t.block = { s.block with cfg := false, rspv := true, rspc := 0b000#3, rspi := 0b00#2 }) ∧
    (s.cfg = false → ∃ t, exec .release s = .next t ∧
      t.block = { s.block with flt := s.flt ||| 0b100#3, rspv := true, rspc := 0b101#3, rspi := 0b00#2 })

/-- Rule R155: where the commands trap on the lifecycle, with no other change; the tag, the pause and `line_err` do not
matter. -/
def Obligations.StateErrors : Prop :=
  ∀ (s : State) (i : Instr),
    (match i with
      | .config _ => s.cfg = true
      | .step _ => s.cfg = false
      | .release => s.cfg = false) →
    ∃ t, exec i s = .next t ∧
      t.block = { s.block with flt := s.flt ||| 0b100#3, rspv := true, rspc := 0b101#3, rspi := 0b00#2 } ∧ t.events = []

/-! ### STEP -/

/-- Rule R122 and the success path of rule R121: a fault-free `STEP` completes; all four lines are written, in order, once. -/
def Obligations.StepEmits : Prop :=
  ∀ (s : State) (p : Ticks), s.cfg = true → s.pins.lineErr = 0b0000#4 →
    ∃ t, exec (.step p) s = .next t ∧
      t.block = { s.block with
        cur := s.cur + 1#2, line := memRead (romAddress s.dir s.cur), pace := p,
        rspv := decide (p = 0#30), rspc := 0b000#3, rspi := 0b00#2 } ∧
      t.events = [⟨0, s.nextVector.getLsbD 0⟩, ⟨1, s.nextVector.getLsbD 1⟩, ⟨2, s.nextVector.getLsbD 2⟩,
        ⟨3, s.nextVector.getLsbD 3⟩]

/-- Rule R153: where `STEP` traps on a failing line, `j` the lowest: the cursor has advanced, the lines below `j` are written,
the others keep their levels, no pause is started. -/
def Obligations.StepLineFault : Prop :=
  ∀ (s : State) (p : Ticks) (j : Fin 4), s.cfg = true → s.pins.lineErr.getLsbD j.val = true →
    (∀ i : Fin 4, i < j → s.pins.lineErr.getLsbD i.val = false) →
    ∃ t, exec (.step p) s = .next t ∧
      t.block = { s.block with
        cur := s.cur + 1#2, line := t.line, flt := s.flt ||| 0b010#3,
        rspv := true, rspc := 0b010#3, rspi := BitVec.ofNat 2 j.val } ∧
      (∀ i : Fin 4, t.line.getLsbD i.val =
        if i < j then (memRead (romAddress s.dir s.cur)).getLsbD i.val else s.line.getLsbD i.val) ∧
      t.events = ([(0 : Fin 4), 1, 2, 3].filter (· < j)).map (fun i => ⟨i, s.nextVector.getLsbD i.val⟩)

/-- What each command leaves unchanged whenever it gives a next state, on every path (rules R121, R140, R142; the schedule is
the model's, log entry 1). -/
def Obligations.CommandFrame : Prop :=
  ∀ (i : Instr) (s t : State), exec i s = .next t →
    t.script = s.script ∧ t.edge = s.edge ∧ s.flt &&& t.flt = s.flt ∧
    (match i with
      | .config _ => t.line = s.line ∧ t.pace = s.pace ∧ t.events = []
      | .step _ => t.cfg = s.cfg ∧ t.dir = s.dir
      | .release => t.line = s.line ∧ t.pace = s.pace ∧ t.dir = s.dir ∧ t.cur = s.cur ∧ t.events = [])

/-! ### The pause -/

/-- Rule R123: the three cases of `PaceTick`; no command is accepted. -/
def Obligations.PaceTick : Prop :=
  ∀ s : State, s.pins.rst = false → s.pace ≠ 0#30 →
    ∃ t, step s = .next t ∧ t.block =
      if s.pins.cancel = true then { s.block with pace := 0#30, rspv := true, rspc := 0b100#3, rspi := 0b00#2 }
      else if s.pace = 1#30 then { s.block with pace := 0#30, rspv := true, rspc := 0b000#3, rspi := 0b00#2 }
      else { s.block with pace := s.pace - 1#30, rspv := false, rspc := 0b000#3, rspi := 0b00#2 }

/-- Rule R124: `PACE` counts down by one per edge, `busy` lasts exactly `N` cycles, `OK` comes at edge `t + N`, and the next
command can be accepted at edge `t + N + 1` at the earliest. `k = 0` is the acceptance edge. -/
def Obligations.PauseLength : Prop :=
  ∀ (s : State) (n : Ticks), s.Emits n → s.Undisturbed n.toNat →
    ∀ k, k ≤ n.toNat → ∃ t, run (k + 1) s = .next t ∧ t.pace.toNat = n.toNat - k ∧
      (t.outputs.busy = true ↔ k < n.toNat) ∧ (t.outputs.cmdReady = true ↔ k = n.toNat) ∧
      (t.rspv = true ↔ k = n.toNat) ∧ t.rspc = 0b000#3 ∧ t.rspi = 0b00#2 ∧
      (t.AcceptsWord ↔ k = n.toNat ∧ (s.inputAt (k + 1)).rst = false ∧ (s.inputAt (k + 1)).cmdValid = true)

/-- Rule R128: a `STEP N` from its acceptance to its response, with its event trace (events stand in the state after their
edge, log entry 3). -/
def Obligations.StepAsOneTransition : Prop :=
  ∀ (s : State) (n : Ticks), s.Emits n → s.Undisturbed n.toNat →
    (∃ t, run (n.toNat + 1) s = .next t ∧ t.block = { s.block with
      cur := s.cur + 1#2, line := memRead (romAddress s.dir s.cur), pace := 0#30,
      rspv := true, rspc := 0b000#3, rspi := 0b00#2 }) ∧
    (∃ t, run 1 s = .next t ∧ t.events = [⟨0, s.nextVector.getLsbD 0⟩, ⟨1, s.nextVector.getLsbD 1⟩,
      ⟨2, s.nextVector.getLsbD 2⟩, ⟨3, s.nextVector.getLsbD 3⟩]) ∧
    (∀ k, 1 ≤ k → k ≤ n.toNat → ∃ t, run (k + 1) s = .next t ∧ t.events = [])

/-- A pause cancelled at its `k`-th edge (rules R156, R195 last row): `CANCELLED` then, no response before, and only the pause
is cut. -/
def Obligations.CancelledPause : Prop :=
  ∀ (s : State) (n : Ticks) (k : Nat), s.Emits n → 1 ≤ k → k ≤ n.toNat → s.NoResetAfter k →
    (∀ j, 1 ≤ j → j < k → (s.inputAt j).cancel = false) → (s.inputAt k).cancel = true →
    (∃ t, run (k + 1) s = .next t ∧ t.block = { s.block with
      cur := s.cur + 1#2, line := memRead (romAddress s.dir s.cur), pace := 0#30,
      rspv := true, rspc := 0b100#3, rspi := 0b00#2 }) ∧
    (∀ j, j < k → ∃ t, run (j + 1) s = .next t ∧ t.pace ≠ 0#30 ∧ t.rspv = false)

/-- Rule R193: a held `cancel` ends every pause after one tick, and the block can accept again at the edge after. -/
def Obligations.HeldCancel : Prop :=
  ∀ (s : State) (n : Ticks), s.Emits n → n ≠ 0#30 → (s.inputAt 1).rst = false → (s.inputAt 1).cancel = true →
    ∃ t, run 2 s = .next t ∧ t.block = { s.block with
      cur := s.cur + 1#2, line := memRead (romAddress s.dir s.cur), pace := 0#30,
      rspv := true, rspc := 0b100#3, rspi := 0b00#2 } ∧ t.outputs.cmdReady = true

/-- A `STEP` with pause 0 (rule R125): never busy, answered at its acceptance edge whatever `cancel` is, and the very next
edge can accept a command. -/
def Obligations.PauseZero : Prop :=
  ∀ s : State, s.Emits 0#30 → ∃ t, step s = .next t ∧ t.block = { s.block with
      cur := s.cur + 1#2, line := memRead (romAddress s.dir s.cur), pace := 0#30,
      rspv := true, rspc := 0b000#3, rspi := 0b00#2 } ∧
    (t.AcceptsWord ↔ (s.inputAt 1).rst = false ∧ (s.inputAt 1).cmdValid = true)

/-- Every accepted word, legal or not, ends in exactly one response unless reset intervenes, at latest when its pause has run
out; until then the block is busy and silent (rules R12, R184, R195). -/
def Obligations.ExactlyOneResponse : Prop :=
  ∀ s : State, s.AcceptsWord → s.NoResetAfter (s.pins.cmd.extractLsb' 0 30).toNat →
    ∃ k, k ≤ (s.pins.cmd.extractLsb' 0 30).toNat ∧
      (∃ t, run (k + 1) s = .next t ∧ t.rspv = true ∧ t.pace = 0#30) ∧
      (∀ j, j < k → ∃ t, run (j + 1) s = .next t ∧ t.rspv = false ∧ t.pace ≠ 0#30)

/-! ### Who writes what -/

/-- `CUR` is written by a `STEP` of a configured Stepper, by a successful `CONFIG`, by reset, and by nothing else (R22). -/
def Obligations.CursorWriters : Prop :=
  ∀ s t : State, s.pins.rst = false → step s = .next t →
    (s.takesStep = true → t.cur = s.cur + 1#2) ∧
    ((∃ g, s.Accepts (.config g) ∧ s.cfg = false ∧ g.getLsbD 1 = false) → t.cur = 0#2) ∧
    (s.takesStep = false → (∀ g, s.Accepts (.config g) → s.cfg = true ∨ g.getLsbD 1 = true) → t.cur = s.cur)

/-- Rule R114: the direction is fixed while configured; what changes it is a `CONFIG` of an unconfigured block, which also
returns the cursor to 0. -/
def Obligations.DirectionFixed : Prop :=
  (∀ s : State, s.nextPhase.2.dir = s.dir) ∧
  (∀ s t : State, s.pins.rst = false → s.cfg = true → step s = .next t → t.dir = s.dir) ∧
  (∀ s t : State, s.pins.rst = false → step s = .next t → t.dir ≠ s.dir →
    s.cfg = false ∧ t.cfg = true ∧ t.cur = 0#2 ∧ ∃ g, s.Accepts (.config g) ∧ g.getLsbD 1 = false)

/-- `LINE` changes, and lines are written, only at an accepted `STEP` of a configured Stepper or by reset (R23, R198). -/
def Obligations.LineWriters : Prop :=
  ∀ s t : State, s.pins.rst = false → s.takesStep = false → step s = .next t → t.line = s.line ∧ t.events = []

/-- Rule R28: a flag is set by the fault responded, is never cleared but by reset, and is never read. -/
def Obligations.FaultFlags : Prop :=
  (∀ s t : State, s.pins.rst = false → step s = .next t →
    ∃ x : ResponseCode, t.rspc = x.bits ∧
      t.flt = s.flt ||| (match x with
        | .configErr => 0b001#3
        | .ioErr => 0b010#3
        | .illegalCmd => 0b100#3
        | .stateErr => 0b100#3
        | .ok => 0b000#3
        | .cancelled => 0b000#3)) ∧
  (∀ s t : State, s.pins.rst = true → step s = .next t → t.flt = 0b000#3) ∧
  (∀ (s t : State) (f : BitVec 3), step s = .next t →
    ∃ u, step { s with flt := f } = .next u ∧ { u.block with flt := t.flt } = t.block) ∧
  (∀ s : State, s.outputs.flt = s.flt)

/-- The response registers are rewritten at every edge and never read, so a response lasts exactly one cycle (R27). -/
def Obligations.ResponseLastsOneCycle : Prop :=
  (∀ (s : State) (v : Bool) (c : BitVec 3) (n : BitVec 2), step { s with rspv := v, rspc := c, rspi := n } = step s) ∧
  (∀ s t : State, step s = .next t → t.rspv = false → t.rspc = 0b000#3 ∧ t.rspi = 0b00#2)

/-! ### Whole-machine rules -/

/-- The invariant holds at reset (rules R31, R35). -/
def Obligations.ResetInvariant : Prop := State.reset.Inv

/-- Every step keeps the invariant (rules R31 (a), (b), R151, R23, R28). -/
def Obligations.StepKeepsInvariant : Prop := ∀ s t : State, s.Inv → step s = .next t → t.Inv

/-- Rule R143: the block refines the lifecycle's transition table; every reachable state has a lifecycle state, and the table
has a row for every event the block can meet there. -/
def Obligations.LifecycleRefinement : Prop :=
  (∀ s : State, s.Inv → ∃ l, s.lifecycle = some l) ∧
  (∀ (s : State) (l : Lifecycle), s.lifecycle = some l →
    ∃ t l' r, step s = .next t ∧ lifecycleRow l s.lifecycleEvent = some (l', r) ∧ t.lifecycle = some l' ∧
      t.responseBits = r.map ResponseCode.bits)

/-- Rule R112, the k-th call law: `n` edges into a configured lifetime, `k` the number of `STEP`s accepted so far, whatever
their pauses, line faults and cancellations, the next `STEP` emits index `k mod 4` of the configured cycle. -/
def Obligations.KthCallLaw : Prop :=
  ∀ (s0 s : State) (dirtag : BitVec 2) (n : Nat), s0.Accepts (.config dirtag) → s0.cfg = false →
    dirtag.getLsbD 1 = false → step s0 = .next s → WithinLifetime n s →
    ∃ t, run n s = .next t ∧ t.cfg = true ∧
      t.dir = (if dirtag.getLsbD 0 then .counterClockwise else .clockwise) ∧
      t.cur.toNat = stepsTaken n s % 4 ∧
      t.nextPhase.1 = memRead (romAddress t.dir (BitVec.ofNat 2 (stepsTaken n s % 4))) ∧
      (t.takesStep = true → ∃ u, step t = .next u ∧ u.cur.toNat = (stepsTaken n s + 1) % 4 ∧
        (t.pins.lineErr = 0b0000#4 → u.line = memRead (romAddress t.dir (BitVec.ofNat 2 (stepsTaken n s % 4)))))

/-- One mechanical step per `STEP` (rule R129): from the vector the last `STEP` emitted to its cyclic successor, which differs
in exactly one pair of lines; the premise holds again afterwards. -/
def Obligations.OneMechanicalStep : Prop :=
  ∀ (s : State) (p : Ticks), s.Emits p → s.line = s.lastVector →
    ∃ t, step s = .next t ∧ t.line = s.nextVector ∧ t.line = t.lastVector ∧
      (t.line ^^^ s.line = 0x3#4 ∨ t.line ^^^ s.line = 0xC#4)

/-- After `IO_ERR` the next fault-free `STEP` emits the vector two places on, which flips both pairs of lines (rule R190). -/
def Obligations.StepAfterLineFault : Prop :=
  ∀ (s : State) (p q : Ticks), s.Accepts (.step p) → s.cfg = true → s.pins.lineErr ≠ 0b0000#4 →
    (s.inputAt 1).rst = false → (s.inputAt 1).cmdValid = true → decode (s.inputAt 1).cmd = .ok (.step q) →
    (s.inputAt 1).lineErr = 0b0000#4 →
    ∃ t, run 2 s = .next t ∧ t.line = memRead (romAddress s.dir (s.cur + 1#2)) ∧ t.cur = s.cur + 2#2 ∧ t.pace = q ∧
      (s.line = s.lastVector → t.line ^^^ s.line = 0xF#4)

/-- Changing direction (rule R145): `RELEASE`, then `CONFIG` with a direction, gives that direction at index 0 with the lines
as they were. -/
def Obligations.ReleaseThenConfig : Prop :=
  ∀ (s : State) (g : BitVec 2), s.Accepts .release → s.cfg = true → (s.inputAt 1).rst = false →
    (s.inputAt 1).cmdValid = true → decode (s.inputAt 1).cmd = .ok (.config g) → g.getLsbD 1 = false →
    ∃ t, run 2 s = .next t ∧ t.block = { s.block with
      cfg := true, dir := if g.getLsbD 0 then .counterClockwise else .clockwise, cur := 0#2,
      rspv := true, rspc := 0b000#3, rspi := 0b00#2 }

/-- The four cases of rule R189: how index 0 of the other direction's cycle follows the last vector emitted, by its index. -/
def Obligations.DirectionChangeCases : Prop :=
  ∀ d e : Direction, d ≠ e →
    memRead (romAddress d 0#2) = memRead (romAddress e 3#2) ∧
    memRead (romAddress d 1#2) ^^^ memRead (romAddress e 0#2) = 0xF#4 ∧
    memRead (romAddress e 0#2) = memRead (romAddress d 3#2)

/-! ### The assembler -/

/-- Rule R88: the word of each syntax, and the ranges outside which the assembler refuses. -/
def Obligations.AssemblerRows : Prop :=
  ∀ hz : Nat,
    assemble hz (.config .clockwise) = some 0x00000000#32 ∧
    assemble hz (.config .counterClockwise) = some 0x00000001#32 ∧
    (∀ t, assemble hz (.configTag t) = if t ≤ 3 then some (BitVec.ofNat 32 t) else none) ∧
    (∀ n, assemble hz (.step n) = if n ≤ 1073741823 then some (0x40000000#32 ||| BitVec.ofNat 32 n) else none) ∧
    assemble hz .release = some 0x80000000#32 ∧
    (∀ w, assemble hz (.word w) = if w < 2 ^ 32 then some (BitVec.ofNat 32 w) else none)

/-- Rule R89: each pseudo-instruction is its expansion, and the reference default pause is the word 0x40002710. -/
def Obligations.PseudoInstructions : Prop :=
  (∀ hz : Nat, assemble hz .configDefault = assemble hz (.config .clockwise) ∧
    assemble hz .stepDefault = assemble hz (.step (pauseDefaultTicks hz)) ∧
    ∀ x, assemble hz (.stepSeconds x) = assemble hz (.step (secToTicks hz x))) ∧
  assemble 1000000 .stepDefault = some 0x40002710#32

/-- Seconds become the least number of ticks that is not shorter (rule R90), and the default pause is `ceil(TICK_HZ / 100)`. -/
def Obligations.SecondsRoundUp : Prop :=
  (∀ (hz : Nat) (x : Decimal), x.digits * hz ≤ secToTicks hz x * 10 ^ x.scale ∧
    ∀ m, x.digits * hz ≤ m * 10 ^ x.scale → secToTicks hz x ≤ m) ∧
  (∀ hz : Nat, pauseDefaultTicks hz = (hz + 99) / 100)

/-- Only `.word` writes illegal words: every other line the assembler takes is the word of an instruction (rules R85, R88). -/
def Obligations.AssemblerWritesCommands : Prop :=
  ∀ (hz : Nat) (l : AsmLine) (w : Word), assemble hz l = some w → (∀ n, l ≠ .word n) → ∃ i, w = encode i ∧ decode w = .ok i

/-- A comment changes nothing, and letters may be upper or lower case (rule R88; that the whole line is case-insensitive is log
entry 11). -/
def Obligations.CommentAndCaseIgnored : Prop :=
  (∀ text comment : List Char, parseLine (text ++ ';' :: comment) = parseLine text) ∧
  (∀ text : List Char, parseLine (text.map lowerCase) = parseLine text)
end

