-- ==== Sys2Proof/Laws/State.lean ====
section
/-! SUPPORT. The field lemmas of every named update of the state, true by rfl, for simp. -/

namespace Sys2Proof.Machine

/-! ### `State.withPins` -/

@[simp] theorem State.withPins_cfg (s : State) (i : Inputs) :
    (s.withPins i).cfg = s.cfg := rfl
@[simp] theorem State.withPins_dir (s : State) (i : Inputs) :
    (s.withPins i).dir = s.dir := rfl
@[simp] theorem State.withPins_cur (s : State) (i : Inputs) :
    (s.withPins i).cur = s.cur := rfl
@[simp] theorem State.withPins_line (s : State) (i : Inputs) :
    (s.withPins i).line = s.line := rfl
@[simp] theorem State.withPins_pace (s : State) (i : Inputs) :
    (s.withPins i).pace = s.pace := rfl
@[simp] theorem State.withPins_flt (s : State) (i : Inputs) :
    (s.withPins i).flt = s.flt := rfl
@[simp] theorem State.withPins_rspv (s : State) (i : Inputs) :
    (s.withPins i).rspv = s.rspv := rfl
@[simp] theorem State.withPins_rspc (s : State) (i : Inputs) :
    (s.withPins i).rspc = s.rspc := rfl
@[simp] theorem State.withPins_rspi (s : State) (i : Inputs) :
    (s.withPins i).rspi = s.rspi := rfl
@[simp] theorem State.withPins_events (s : State) (i : Inputs) :
    (s.withPins i).events = s.events := rfl
@[simp] theorem State.withPins_script (s : State) (i : Inputs) :
    (s.withPins i).script = i :: s.script.tail := rfl
@[simp] theorem State.withPins_edge (s : State) (i : Inputs) :
    (s.withPins i).edge = s.edge := rfl

/-! ### `State.nextEdge` -/

@[simp] theorem State.nextEdge_cfg (s : State) :
    (s.nextEdge).cfg = s.cfg := rfl
@[simp] theorem State.nextEdge_dir (s : State) :
    (s.nextEdge).dir = s.dir := rfl
@[simp] theorem State.nextEdge_cur (s : State) :
    (s.nextEdge).cur = s.cur := rfl
@[simp] theorem State.nextEdge_line (s : State) :
    (s.nextEdge).line = s.line := rfl
@[simp] theorem State.nextEdge_pace (s : State) :
    (s.nextEdge).pace = s.pace := rfl
@[simp] theorem State.nextEdge_flt (s : State) :
    (s.nextEdge).flt = s.flt := rfl
@[simp] theorem State.nextEdge_rspv (s : State) :
    (s.nextEdge).rspv = s.rspv := rfl
@[simp] theorem State.nextEdge_rspc (s : State) :
    (s.nextEdge).rspc = s.rspc := rfl
@[simp] theorem State.nextEdge_rspi (s : State) :
    (s.nextEdge).rspi = s.rspi := rfl
@[simp] theorem State.nextEdge_events (s : State) :
    (s.nextEdge).events = s.events := rfl
@[simp] theorem State.nextEdge_script (s : State) :
    (s.nextEdge).script = s.script.tail := rfl
@[simp] theorem State.nextEdge_edge (s : State) :
    (s.nextEdge).edge = s.edge + 1 := rfl

/-! ### `State.presentWord` -/

@[simp] theorem State.presentWord_cfg (s : State) (w : Word) :
    (s.presentWord w).cfg = s.cfg := rfl
@[simp] theorem State.presentWord_dir (s : State) (w : Word) :
    (s.presentWord w).dir = s.dir := rfl
@[simp] theorem State.presentWord_cur (s : State) (w : Word) :
    (s.presentWord w).cur = s.cur := rfl
@[simp] theorem State.presentWord_line (s : State) (w : Word) :
    (s.presentWord w).line = s.line := rfl
@[simp] theorem State.presentWord_pace (s : State) (w : Word) :
    (s.presentWord w).pace = 0#30 := rfl
@[simp] theorem State.presentWord_flt (s : State) (w : Word) :
    (s.presentWord w).flt = s.flt := rfl
@[simp] theorem State.presentWord_rspv (s : State) (w : Word) :
    (s.presentWord w).rspv = s.rspv := rfl
@[simp] theorem State.presentWord_rspc (s : State) (w : Word) :
    (s.presentWord w).rspc = s.rspc := rfl
@[simp] theorem State.presentWord_rspi (s : State) (w : Word) :
    (s.presentWord w).rspi = s.rspi := rfl
@[simp] theorem State.presentWord_events (s : State) (w : Word) :
    (s.presentWord w).events = s.events := rfl
@[simp] theorem State.presentWord_script (s : State) (w : Word) :
    (s.presentWord w).script = ⟨false, true, w, false, 0#4⟩ :: s.script.tail := rfl
@[simp] theorem State.presentWord_edge (s : State) (w : Word) :
    (s.presentWord w).edge = s.edge := rfl

/-! ### `State.beginEdge` -/

@[simp] theorem State.beginEdge_cfg (s : State) :
    (s.beginEdge).cfg = s.cfg := rfl
@[simp] theorem State.beginEdge_dir (s : State) :
    (s.beginEdge).dir = s.dir := rfl
@[simp] theorem State.beginEdge_cur (s : State) :
    (s.beginEdge).cur = s.cur := rfl
@[simp] theorem State.beginEdge_line (s : State) :
    (s.beginEdge).line = s.line := rfl
@[simp] theorem State.beginEdge_pace (s : State) :
    (s.beginEdge).pace = s.pace := rfl
@[simp] theorem State.beginEdge_flt (s : State) :
    (s.beginEdge).flt = s.flt := rfl
@[simp] theorem State.beginEdge_rspv (s : State) :
    (s.beginEdge).rspv = false := rfl
@[simp] theorem State.beginEdge_rspc (s : State) :
    (s.beginEdge).rspc = 0b000#3 := rfl
@[simp] theorem State.beginEdge_rspi (s : State) :
    (s.beginEdge).rspi = 0b00#2 := rfl
@[simp] theorem State.beginEdge_events (s : State) :
    (s.beginEdge).events = [] := rfl
@[simp] theorem State.beginEdge_script (s : State) :
    (s.beginEdge).script = s.script := rfl
@[simp] theorem State.beginEdge_edge (s : State) :
    (s.beginEdge).edge = s.edge := rfl

/-! ### `State.respond` -/

@[simp] theorem State.respond_cfg (s : State) (c : ResponseCode) (n : BitVec 2) :
    (s.respond c n).cfg = s.cfg := rfl
@[simp] theorem State.respond_dir (s : State) (c : ResponseCode) (n : BitVec 2) :
    (s.respond c n).dir = s.dir := rfl
@[simp] theorem State.respond_cur (s : State) (c : ResponseCode) (n : BitVec 2) :
    (s.respond c n).cur = s.cur := rfl
@[simp] theorem State.respond_line (s : State) (c : ResponseCode) (n : BitVec 2) :
    (s.respond c n).line = s.line := rfl
@[simp] theorem State.respond_pace (s : State) (c : ResponseCode) (n : BitVec 2) :
    (s.respond c n).pace = s.pace := rfl
@[simp] theorem State.respond_flt (s : State) (c : ResponseCode) (n : BitVec 2) :
    (s.respond c n).flt = s.flt := rfl
@[simp] theorem State.respond_rspv (s : State) (c : ResponseCode) (n : BitVec 2) :
    (s.respond c n).rspv = true := rfl
@[simp] theorem State.respond_rspc (s : State) (c : ResponseCode) (n : BitVec 2) :
    (s.respond c n).rspc = c.bits := rfl
@[simp] theorem State.respond_rspi (s : State) (c : ResponseCode) (n : BitVec 2) :
    (s.respond c n).rspi = n := rfl
@[simp] theorem State.respond_events (s : State) (c : ResponseCode) (n : BitVec 2) :
    (s.respond c n).events = s.events := rfl
@[simp] theorem State.respond_script (s : State) (c : ResponseCode) (n : BitVec 2) :
    (s.respond c n).script = s.script := rfl
@[simp] theorem State.respond_edge (s : State) (c : ResponseCode) (n : BitVec 2) :
    (s.respond c n).edge = s.edge := rfl

/-! ### `State.raise` -/

@[simp] theorem State.raise_cfg (s : State) (c : ResponseCode) (n : BitVec 2) :
    (s.raise c n).cfg = s.cfg := rfl
@[simp] theorem State.raise_dir (s : State) (c : ResponseCode) (n : BitVec 2) :
    (s.raise c n).dir = s.dir := rfl
@[simp] theorem State.raise_cur (s : State) (c : ResponseCode) (n : BitVec 2) :
    (s.raise c n).cur = s.cur := rfl
@[simp] theorem State.raise_line (s : State) (c : ResponseCode) (n : BitVec 2) :
    (s.raise c n).line = s.line := rfl
@[simp] theorem State.raise_pace (s : State) (c : ResponseCode) (n : BitVec 2) :
    (s.raise c n).pace = s.pace := rfl
@[simp] theorem State.raise_flt (s : State) (c : ResponseCode) (n : BitVec 2) :
    (s.raise c n).flt = s.flt ||| c.stickyFlag := rfl
@[simp] theorem State.raise_rspv (s : State) (c : ResponseCode) (n : BitVec 2) :
    (s.raise c n).rspv = true := rfl
@[simp] theorem State.raise_rspc (s : State) (c : ResponseCode) (n : BitVec 2) :
    (s.raise c n).rspc = c.bits := rfl
@[simp] theorem State.raise_rspi (s : State) (c : ResponseCode) (n : BitVec 2) :
    (s.raise c n).rspi = n := rfl
@[simp] theorem State.raise_events (s : State) (c : ResponseCode) (n : BitVec 2) :
    (s.raise c n).events = s.events := rfl
@[simp] theorem State.raise_script (s : State) (c : ResponseCode) (n : BitVec 2) :
    (s.raise c n).script = s.script := rfl
@[simp] theorem State.raise_edge (s : State) (c : ResponseCode) (n : BitVec 2) :
    (s.raise c n).edge = s.edge := rfl

/-! ### `State.lineWrite` -/

@[simp] theorem State.lineWrite_cfg (s : State) (i : Fin 4) (b : Bool) :
    (s.lineWrite i b).cfg = s.cfg := rfl
@[simp] theorem State.lineWrite_dir (s : State) (i : Fin 4) (b : Bool) :
    (s.lineWrite i b).dir = s.dir := rfl
@[simp] theorem State.lineWrite_cur (s : State) (i : Fin 4) (b : Bool) :
    (s.lineWrite i b).cur = s.cur := rfl
@[simp] theorem State.lineWrite_line (s : State) (i : Fin 4) (b : Bool) :
    (s.lineWrite i b).line = setBit s.line i b := rfl
@[simp] theorem State.lineWrite_pace (s : State) (i : Fin 4) (b : Bool) :
    (s.lineWrite i b).pace = s.pace := rfl
@[simp] theorem State.lineWrite_flt (s : State) (i : Fin 4) (b : Bool) :
    (s.lineWrite i b).flt = s.flt := rfl
@[simp] theorem State.lineWrite_rspv (s : State) (i : Fin 4) (b : Bool) :
    (s.lineWrite i b).rspv = s.rspv := rfl
@[simp] theorem State.lineWrite_rspc (s : State) (i : Fin 4) (b : Bool) :
    (s.lineWrite i b).rspc = s.rspc := rfl
@[simp] theorem State.lineWrite_rspi (s : State) (i : Fin 4) (b : Bool) :
    (s.lineWrite i b).rspi = s.rspi := rfl
@[simp] theorem State.lineWrite_events (s : State) (i : Fin 4) (b : Bool) :
    (s.lineWrite i b).events = s.events ++ [⟨i, b⟩] := rfl
@[simp] theorem State.lineWrite_script (s : State) (i : Fin 4) (b : Bool) :
    (s.lineWrite i b).script = s.script := rfl
@[simp] theorem State.lineWrite_edge (s : State) (i : Fin 4) (b : Bool) :
    (s.lineWrite i b).edge = s.edge := rfl

/-! ### `State.nextPhase` -/

@[simp] theorem State.nextPhase_vector (s : State) :
    s.nextPhase.1 = memRead (romAddress s.dir s.cur) := rfl
@[simp] theorem State.nextPhase_cfg (s : State) :
    s.nextPhase.2.cfg = s.cfg := rfl
@[simp] theorem State.nextPhase_dir (s : State) :
    s.nextPhase.2.dir = s.dir := rfl
@[simp] theorem State.nextPhase_cur (s : State) :
    s.nextPhase.2.cur = s.cur + 1#2 := rfl
@[simp] theorem State.nextPhase_line (s : State) :
    s.nextPhase.2.line = s.line := rfl
@[simp] theorem State.nextPhase_pace (s : State) :
    s.nextPhase.2.pace = s.pace := rfl
@[simp] theorem State.nextPhase_flt (s : State) :
    s.nextPhase.2.flt = s.flt := rfl
@[simp] theorem State.nextPhase_rspv (s : State) :
    s.nextPhase.2.rspv = s.rspv := rfl
@[simp] theorem State.nextPhase_rspc (s : State) :
    s.nextPhase.2.rspc = s.rspc := rfl
@[simp] theorem State.nextPhase_rspi (s : State) :
    s.nextPhase.2.rspi = s.rspi := rfl
@[simp] theorem State.nextPhase_events (s : State) :
    s.nextPhase.2.events = s.events := rfl
@[simp] theorem State.nextPhase_script (s : State) :
    s.nextPhase.2.script = s.script := rfl
@[simp] theorem State.nextPhase_edge (s : State) :
    s.nextPhase.2.edge = s.edge := rfl

/-! ### `resetEdge` -/

@[simp] theorem resetEdge_cfg (s : State) :
    (resetEdge s).cfg = false := rfl
@[simp] theorem resetEdge_dir (s : State) :
    (resetEdge s).dir = .clockwise := rfl
@[simp] theorem resetEdge_cur (s : State) :
    (resetEdge s).cur = 0#2 := rfl
@[simp] theorem resetEdge_line (s : State) :
    (resetEdge s).line = Config.lineReset := rfl
@[simp] theorem resetEdge_pace (s : State) :
    (resetEdge s).pace = 0#30 := rfl
@[simp] theorem resetEdge_flt (s : State) :
    (resetEdge s).flt = 0b000#3 := rfl
@[simp] theorem resetEdge_rspv (s : State) :
    (resetEdge s).rspv = false := rfl
@[simp] theorem resetEdge_rspc (s : State) :
    (resetEdge s).rspc = 0b000#3 := rfl
@[simp] theorem resetEdge_rspi (s : State) :
    (resetEdge s).rspi = 0b00#2 := rfl
@[simp] theorem resetEdge_events (s : State) :
    (resetEdge s).events = [] := rfl
@[simp] theorem resetEdge_script (s : State) :
    (resetEdge s).script = s.script := rfl
@[simp] theorem resetEdge_edge (s : State) :
    (resetEdge s).edge = s.edge := rfl

end Sys2Proof.Machine
end

