-- ==== Sys2Proof/Laws/Ops.lean ====
section
/-! SUPPORT. What each shared operation can do, said once: the input pins, the line writes of a `STEP`, the lowest failing
line, the choice of an edge's branch. -/

namespace Sys2Proof.Machine

@[simp] theorem State.pins_withPins (s : State) (i : Inputs) : (s.withPins i).pins = i := rfl

@[simp] theorem State.pins_presentWord (s : State) (w : Word) :
    (s.presentWord w).pins = ⟨false, true, w, false, 0#4⟩ := rfl

/-- The pins depend on the schedule and the edge count alone. -/
theorem State.pins_congr {s t : State} (hs : s.script = t.script) (he : s.edge = t.edge) : s.pins = t.pins := by
  simp [State.pins, hs, he]

@[simp] theorem State.pins_beginEdge (s : State) : s.beginEdge.pins = s.pins := rfl

/-! ### Line writes -/

theorem setBit_getLsbD (v : PhaseVector) (i : Fin 4) (b : Bool) (k : Nat) (hk : k < 4) :
    (setBit v i b).getLsbD k = if k = i.val then b else v.getLsbD k := by
  revert v i b k; decide

/-- Everything the line writes of a `STEP` change: `LINE` and the events. -/
theorem State.writeLines_frame (s : State) (v : PhaseVector) (j : Nat) :
    s.writeLines v j = { s with line := (s.writeLines v j).line, events := (s.writeLines v j).events } := by
  unfold State.writeLines
  simp only [List.foldl_cons, List.foldl_nil]
  split_ifs <;> rfl

@[simp] theorem State.writeLines_cfg (s : State) (v : PhaseVector) (j : Nat) :
    (s.writeLines v j).cfg = s.cfg := by rw [State.writeLines_frame]
@[simp] theorem State.writeLines_dir (s : State) (v : PhaseVector) (j : Nat) :
    (s.writeLines v j).dir = s.dir := by rw [State.writeLines_frame]
@[simp] theorem State.writeLines_cur (s : State) (v : PhaseVector) (j : Nat) :
    (s.writeLines v j).cur = s.cur := by rw [State.writeLines_frame]
@[simp] theorem State.writeLines_pace (s : State) (v : PhaseVector) (j : Nat) :
    (s.writeLines v j).pace = s.pace := by rw [State.writeLines_frame]
@[simp] theorem State.writeLines_flt (s : State) (v : PhaseVector) (j : Nat) :
    (s.writeLines v j).flt = s.flt := by rw [State.writeLines_frame]
@[simp] theorem State.writeLines_rspv (s : State) (v : PhaseVector) (j : Nat) :
    (s.writeLines v j).rspv = s.rspv := by rw [State.writeLines_frame]
@[simp] theorem State.writeLines_rspc (s : State) (v : PhaseVector) (j : Nat) :
    (s.writeLines v j).rspc = s.rspc := by rw [State.writeLines_frame]
@[simp] theorem State.writeLines_rspi (s : State) (v : PhaseVector) (j : Nat) :
    (s.writeLines v j).rspi = s.rspi := by rw [State.writeLines_frame]
@[simp] theorem State.writeLines_script (s : State) (v : PhaseVector) (j : Nat) :
    (s.writeLines v j).script = s.script := by rw [State.writeLines_frame]
@[simp] theorem State.writeLines_edge (s : State) (v : PhaseVector) (j : Nat) :
    (s.writeLines v j).edge = s.edge := by rw [State.writeLines_frame]

/-- One write of the loop, made only if its line is below `j`. -/
theorem State.lineWrite_if_getLsbD (s : State) (i : Fin 4) (b : Bool) (j k : Nat) (hk : k < 4) :
    (if i.val < j then s.lineWrite i b else s).line.getLsbD k =
      if k = i.val ∧ i.val < j then b else s.line.getLsbD k := by
  by_cases hj : i.val < j
  · simp [hj, setBit_getLsbD s.line i b k hk]
  · simp [hj]

/-- After the line writes below `j`, lines `0..j-1` hold the new vector's bits and the others keep theirs. -/
theorem State.writeLines_getLsbD (s : State) (v : PhaseVector) (j k : Nat) (hk : k < 4) :
    (s.writeLines v j).line.getLsbD k = if k < j then v.getLsbD k else s.line.getLsbD k := by
  unfold State.writeLines
  simp only [List.foldl_cons, List.foldl_nil]
  repeat rw [State.lineWrite_if_getLsbD _ _ _ _ _ hk]
  obtain rfl | rfl | rfl | rfl : k = 0 ∨ k = 1 ∨ k = 2 ∨ k = 3 := by omega
  all_goals simp

/-- The line writes are recorded in line order, each line below `j` once. -/
theorem State.writeLines_events (s : State) (v : PhaseVector) (j : Nat) :
    (s.writeLines v j).events =
      s.events ++ ([(0 : Fin 4), 1, 2, 3].filter (·.val < j)).map (fun i => ⟨i, v.getLsbD i.val⟩) := by
  unfold State.writeLines
  simp only [List.foldl_cons, List.foldl_nil]
  split_ifs <;> simp_all

/-- With no failing line all four lines are written: `LINE = v` exactly (rule R122). -/
theorem State.writeLines_all (s : State) (v : PhaseVector) :
    s.writeLines v 4 = { s with line := v, events := s.events ++
      [⟨0, v.getLsbD 0⟩, ⟨1, v.getLsbD 1⟩, ⟨2, v.getLsbD 2⟩, ⟨3, v.getLsbD 3⟩] } := by
  have hline : (s.writeLines v 4).line = v := by
    apply BitVec.eq_of_getLsbD_eq
    intro k hk
    rw [State.writeLines_getLsbD s v 4 k hk, if_pos hk]
  rw [State.writeLines_frame, hline, State.writeLines_events]
  rfl

/-! ### The lowest failing line -/

theorem lowestFailingLine_le (e : BitVec 4) : lowestFailingLine e ≤ 4 := by revert e; decide

theorem lowestFailingLine_eq_four (e : BitVec 4) : lowestFailingLine e = 4 ↔ e = 0b0000#4 := by revert e; decide

theorem lowestFailingLine_lt (e : BitVec 4) : lowestFailingLine e < 4 ↔ e ≠ 0b0000#4 := by revert e; decide

/-- A line index that fails while all lower ones do not is the lowest failing line. -/
theorem lowestFailingLine_unique (e : BitVec 4) (j : Fin 4) (hj : e.getLsbD j.val = true)
    (hlow : ∀ i : Fin 4, i < j → e.getLsbD i.val = false) : lowestFailingLine e = j.val := by
  revert e j; decide

/-! ### The branch of an edge -/

theorem State.edgeKind_reset {s : State} (h : s.pins.rst = true) : s.edgeKind = .reset := by
  simp [State.edgeKind, h]

theorem State.edgeKind_pace {s : State} (h : s.pins.rst = false) (hp : s.pace ≠ 0#30) : s.edgeKind = .pace := by
  simp [State.edgeKind, h, hp]

theorem State.edgeKind_command {s : State} (h : s.pins.rst = false) (hp : s.pace = 0#30)
    (hv : s.pins.cmdValid = true) : s.edgeKind = .command := by
  simp [State.edgeKind, h, hp, hv]

theorem State.edgeKind_idle {s : State} (h : s.pins.rst = false) (hp : s.pace = 0#30)
    (hv : s.pins.cmdValid = false) : s.edgeKind = .idle := by
  simp [State.edgeKind, h, hp, hv]

/-- Which pins and state each branch of an edge needs. -/
theorem State.edgeKind_cases (s : State) :
    (s.edgeKind = .reset ∧ s.pins.rst = true) ∨
    (s.edgeKind = .pace ∧ s.pins.rst = false ∧ s.pace ≠ 0#30) ∨
    (s.edgeKind = .command ∧ s.pins.rst = false ∧ s.pace = 0#30 ∧ s.pins.cmdValid = true) ∨
    (s.edgeKind = .idle ∧ s.pins.rst = false ∧ s.pace = 0#30 ∧ s.pins.cmdValid = false) := by
  unfold State.edgeKind
  split_ifs <;> simp_all

end Sys2Proof.Machine
end

