-- ==== Sys2Proof/Laws/Step.lean ====
section
/-! SUPPORT. The step by the branch it takes, the schedule of the pins along a run, and runs cut into pieces. -/

namespace Sys2Proof.Machine

theorem finishEdge_next (t : State) : finishEdge (.next t) = .next t.nextEdge := rfl

theorem step_reset {s : State} (h : s.pins.rst = true) : step s = .next (resetEdge s).nextEdge := by
  simp [step, State.edgeKind_reset h]

theorem step_pace {s : State} (h : s.pins.rst = false) (hp : s.pace ≠ 0#30) :
    step s = .next (paceTick s).nextEdge := by
  simp [step, State.edgeKind_pace h hp]

theorem step_illegal {s : State} {why : IllegalWord} (h : s.AcceptsWord) (hd : decode s.pins.cmd = .error why) :
    step s = .next (illegalCommand why s).nextEdge := by
  simp only [step, State.edgeKind_command h.1 h.2.1 h.2.2, hd]

theorem step_idle {s : State} (h : s.pins.rst = false) (hp : s.pace = 0#30) (hv : s.pins.cmdValid = false) :
    step s = .next (idleEdge s).nextEdge := by
  simp [step, State.edgeKind_idle h hp hv]

/-- Everything an edge can be: reset, a tick of the pause, a legal command, an illegal word, nothing. -/
theorem step_cases (s : State) :
    (s.pins.rst = true ∧ step s = .next (resetEdge s).nextEdge) ∨
    (s.pins.rst = false ∧ s.pace ≠ 0#30 ∧ step s = .next (paceTick s).nextEdge) ∨
    (∃ i, s.AcceptsWord ∧ decode s.pins.cmd = .ok i ∧ step s = finishEdge (exec i s)) ∨
    (∃ why, s.AcceptsWord ∧ decode s.pins.cmd = .error why ∧ step s = .next (illegalCommand why s).nextEdge) ∨
    (s.pins.rst = false ∧ s.pace = 0#30 ∧ s.pins.cmdValid = false ∧ step s = .next (idleEdge s).nextEdge) := by
  rcases s.edgeKind_cases with ⟨-, h⟩ | ⟨-, h, hp⟩ | ⟨-, h⟩ | ⟨-, h, hp, hv⟩
  · exact .inl ⟨h, step_reset h⟩
  · exact .inr (.inl ⟨h, hp, step_pace h hp⟩)
  · cases hd : decode s.pins.cmd with
    | ok i => exact .inr (.inr (.inl ⟨i, h, rfl, by simp only [step, State.edgeKind_command h.1 h.2.1 h.2.2, hd]⟩))
    | error why => exact .inr (.inr (.inr (.inl ⟨why, h, rfl, step_illegal h hd⟩)))
  · exact .inr (.inr (.inr (.inr ⟨h, hp, hv, step_idle h hp hv⟩)))

/-! ### The schedule -/

theorem State.inputAt_zero (s : State) : s.inputAt 0 = s.pins := by
  simp only [State.inputAt, State.pins]
  cases s.script <;> rfl

/-- The pins of a later edge do not depend on how far the schedule has moved. -/
theorem State.inputAt_succ {s t : State} (hs : t.script = s.script.tail) (he : t.edge = s.edge + 1) (k : Nat) :
    t.inputAt k = s.inputAt (k + 1) := by
  simp only [State.inputAt, hs, he]
  have : s.edge + 1 + k = s.edge + (k + 1) := by omega
  rw [this]
  cases s.script <;> rfl

@[simp] theorem State.inputAt_nextEdge (s : State) (k : Nat) : s.nextEdge.inputAt k = s.inputAt (k + 1) :=
  State.inputAt_succ rfl rfl k

/-- States with the same schedule and edge count sample the same pins. -/
theorem State.inputAt_congr {s t : State} (hs : s.script = t.script) (he : s.edge = t.edge) (k : Nat) :
    s.inputAt k = t.inputAt k := by
  simp only [State.inputAt, hs, he]

/-! ### Runs -/

@[simp] theorem run_zero (s : State) : run 0 s = .next s := rfl

theorem run_succ {s t : State} (h : step s = .next t) (k : Nat) : run (k + 1) s = run k t := by
  simp [run, h]

theorem run_one {s t : State} (h : step s = .next t) : run 1 s = .next t := by
  rw [run_succ h, run_zero]

/-- A run cut in two. -/
theorem run_add {s t : State} (j k : Nat) (h : run j s = .next t) : run (j + k) s = run k t := by
  induction j generalizing s with
  | zero => cases h; simp
  | succ j ih =>
    cases hs : step s with
    | next u =>
      rw [run_succ hs] at h
      rw [Nat.succ_add, run_succ hs, ih h]
    | fault r => simp [run, hs] at h
    | refused r => simp [run, hs] at h

/-- The lifetime and the count of steps, cut at their first edge. -/
theorem withinLifetime_succ {s t : State} (h : step s = .next t) (n : Nat) :
    WithinLifetime (n + 1) s ↔ s.pins.rst = false ∧ ¬ s.Accepts .release ∧ WithinLifetime n t := by
  simp [WithinLifetime, h]

theorem stepsTaken_succ {s t : State} (h : step s = .next t) (n : Nat) :
    stepsTaken (n + 1) s = (if s.takesStep then 1 else 0) + stepsTaken n t := by
  simp [stepsTaken, h]

theorem State.takesStep_iff (s : State) : s.takesStep = true ↔ s.cfg = true ∧ ∃ p, s.Accepts (.step p) := by
  unfold State.takesStep State.Accepts State.AcceptsWord
  cases decode s.pins.cmd with
  | error w => simp
  | ok i =>
    cases i with
    | step p => simp; tauto
    | config g => simp
    | release => simp

end Sys2Proof.Machine
end

