-- ==== Sys2Proof/Laws/Exec.lean ====
section
/-! SUPPORT. What each meaning can do, said once in the terms of the shared operations, and the schedule no command moves. -/

namespace Sys2Proof.Machine

/-- The state a configured `STEP` reaches before it answers: the cursor advanced, the lines below the lowest failing one written. -/
def State.afterLines (s : State) : State :=
  s.beginEdge.nextPhase.2.writeLines (memRead (romAddress s.dir s.cur)) (lowestFailingLine s.pins.lineErr)

theorem execStep_unconfigured {s : State} (p : Ticks) (h : s.cfg = false) :
    execStep p s = .next (s.beginEdge.raise .stateErr 0#2) := by
  simp [execStep, h]

theorem execStep_lineFault {s : State} (p : Ticks) (h : s.cfg = true) (he : s.pins.lineErr ≠ 0b0000#4) :
    execStep p s = .next (s.afterLines.raise .ioErr (BitVec.ofNat 2 (lowestFailingLine s.pins.lineErr))) := by
  have hj := (lowestFailingLine_lt _).2 he
  simp [execStep, h, hj, State.afterLines]

theorem execStep_emits {s : State} (p : Ticks) (h : s.cfg = true) (he : s.pins.lineErr = 0b0000#4) :
    execStep p s = .next
      (if p = 0#30 then { s.afterLines with pace := p }.respond .ok 0#2 else { s.afterLines with pace := p }) := by
  have hj : ¬ lowestFailingLine s.pins.lineErr < 4 := fun hlt => (lowestFailingLine_lt _).1 hlt he
  by_cases hp : p = 0#30 <;> simp [execStep, h, hj, hp, State.afterLines]

/-- Everything `STEP` can do. -/
theorem execStep_cases (p : Ticks) (s : State) :
    (s.cfg = false ∧ execStep p s = .next (s.beginEdge.raise .stateErr 0#2)) ∨
    (s.cfg = true ∧ s.pins.lineErr ≠ 0b0000#4 ∧ execStep p s =
      .next (s.afterLines.raise .ioErr (BitVec.ofNat 2 (lowestFailingLine s.pins.lineErr)))) ∨
    (s.cfg = true ∧ s.pins.lineErr = 0b0000#4 ∧ execStep p s = .next
      (if p = 0#30 then { s.afterLines with pace := p }.respond .ok 0#2 else { s.afterLines with pace := p })) := by
  cases h : s.cfg with
  | false => exact .inl ⟨rfl, execStep_unconfigured p h⟩
  | true =>
    by_cases he : s.pins.lineErr = 0b0000#4
    · exact .inr (.inr ⟨rfl, he, execStep_emits p h he⟩)
    · exact .inr (.inl ⟨rfl, he, execStep_lineFault p h he⟩)

theorem directionOfTag_none (g : BitVec 2) : directionOfTag g = none ↔ g.getLsbD 1 = true := by revert g; decide

theorem directionOfTag_some {g : BitVec 2} (h : g.getLsbD 1 = false) :
    directionOfTag g = some (Direction.ofBit (g.getLsbD 0)) := by
  revert g; decide

/-- Everything `CONFIG` can do. -/
theorem execConfig_cases (g : BitVec 2) (s : State) :
    (s.cfg = true ∧ execConfig g s = .next (s.beginEdge.raise .stateErr 0#2)) ∨
    (s.cfg = false ∧ g.getLsbD 1 = true ∧ execConfig g s = .next (s.beginEdge.raise .configErr g)) ∨
    (s.cfg = false ∧ g.getLsbD 1 = false ∧ execConfig g s = .next
      ({ s.beginEdge with dir := Direction.ofBit (g.getLsbD 0), cur := 0#2, cfg := true }.respond .ok 0#2)) := by
  cases h : s.cfg with
  | true => exact .inl ⟨rfl, by simp [execConfig, h]⟩
  | false =>
    cases hg : g.getLsbD 1 with
    | true => exact .inr (.inl ⟨rfl, rfl, by simp [execConfig, h, (directionOfTag_none g).2 hg]⟩)
    | false => exact .inr (.inr ⟨rfl, rfl, by simp [execConfig, h, directionOfTag_some hg]⟩)

/-- Everything `RELEASE` can do. -/
theorem execRelease_cases (s : State) :
    (s.cfg = false ∧ execRelease s = .next (s.beginEdge.raise .stateErr 0#2)) ∨
    (s.cfg = true ∧ execRelease s = .next ({ s.beginEdge with cfg := false }.respond .ok 0#2)) := by
  cases h : s.cfg <;> simp [execRelease, h]

/-- Everything a tick of the pause can do. -/
theorem paceTick_cases (s : State) :
    (s.pins.cancel = true ∧ paceTick s = { s.beginEdge with pace := 0#30 }.respond .cancelled 0#2) ∨
    (s.pins.cancel = false ∧ s.pace = 1#30 ∧ paceTick s = { s.beginEdge with pace := 0#30 }.respond .ok 0#2) ∨
    (s.pins.cancel = false ∧ s.pace ≠ 1#30 ∧ paceTick s = { s.beginEdge with pace := s.pace - 1#30 }) := by
  unfold paceTick
  cases h : s.pins.cancel with
  | true => exact .inl ⟨rfl, by simp⟩
  | false =>
    by_cases hp : s.pace = 1#30
    · exact .inr (.inl ⟨rfl, hp, by simp [hp]⟩)
    · exact .inr (.inr ⟨rfl, hp, by simp [hp]⟩)

@[simp] theorem State.afterLines_script (s : State) : s.afterLines.script = s.script := by simp [State.afterLines]
@[simp] theorem State.afterLines_edge (s : State) : s.afterLines.edge = s.edge := by simp [State.afterLines]

/-- No command moves the schedule of the pins: only the edge around it does. -/
theorem exec_schedule {i : Instr} {s t : State} (h : exec i s = .next t) : t.script = s.script ∧ t.edge = s.edge := by
  cases i with
  | config g =>
    rcases execConfig_cases g s with ⟨-, e⟩ | ⟨-, -, e⟩ | ⟨-, -, e⟩ <;>
      (simp only [exec, e, Host.Outcome.next.injEq] at h; subst h; exact ⟨rfl, rfl⟩)
  | step p =>
    rcases execStep_cases p s with ⟨-, e⟩ | ⟨-, -, e⟩ | ⟨-, -, e⟩ <;>
      (simp only [exec, e, Host.Outcome.next.injEq] at h; subst h; try split_ifs) <;> simp
  | release =>
    rcases execRelease_cases s with ⟨-, e⟩ | ⟨-, e⟩ <;>
      (simp only [exec, e, Host.Outcome.next.injEq] at h; subst h; exact ⟨rfl, rfl⟩)

end Sys2Proof.Machine
end

