-- ==== Sys2Proof/Laws/PerInstr.lean ====
section
/-! SUPPORT. Per-instruction facts about the syntax: the encoding of every instruction lies in its own row of the opcode map. -/

namespace Sys2Proof.Laws

/-- The word of `i` matches the mask and pattern of its row, which is a row of the opcode map (rule R85). -/
def RowMatch.Statement (i : Instr) : Prop := i.row ∈ opcodeMap ∧ i.row.accepts (encode i) = true

theorem RowMatch.config (dirtag : BitVec 2) : RowMatch.Statement (.config dirtag) := by
  refine ⟨by simp [Instr.row, opcodeMap], ?_⟩
  revert dirtag; decide

theorem RowMatch.step (pause : Ticks) : RowMatch.Statement (.step pause) := by
  refine ⟨by simp [Instr.row, opcodeMap], ?_⟩
  have h : encode (.step pause) &&& 0xC0000000#32 = 0x40000000#32 := by
    have e : encode (.step pause) = 0b01#2 ++ pause := rfl
    have m : (0xC0000000#32) = 0b11#2 ++ 0#30 := by decide
    have r : (0x40000000#32) = 0b01#2 ++ 0#30 := by decide
    rw [e, m, r, BitVec.and_append]
    simp
  simp [OpcodeRow.accepts, Instr.row, stepRow, h]

theorem RowMatch.release : RowMatch.Statement .release := ⟨by simp [Instr.row, opcodeMap], by decide⟩

end Sys2Proof.Laws
end

