-- ==== Sys2Proof/Tests/Slice0.lean ====
section
/-! SUPPORT. Tests against the vectors of 95_test_vectors.md, the smoke test of well-formedness, and a witness for the
hypotheses of every statement. -/

namespace Sys2Proof.Tests

open Sys2Proof Sys2Proof.Machine

/-! ### Helpers -/

/-- The next state of an outcome. -/
def nextOf : Host.Outcome State Fault Refusal → Option State
  | .next t => some t
  | _ => none

theorem exists_next {o : Host.Outcome State Fault Refusal} (h : (nextOf o).isSome = true) : ∃ t, o = .next t := by
  cases o with
  | next t => exact ⟨t, rfl⟩
  | fault r => cases h
  | refused r => cases h

/-- The spec's state after one step. -/
def blockAfter (s : State) : Option Block := (nextOf (step s)).map State.block

/-- The pins with only a command on them. -/
def command (w : Word) : Inputs := ⟨false, true, w, false, 0#4⟩

/-- The pins with nothing on them. -/
def quiet : Inputs := ⟨false, false, 0#32, false, 0#4⟩

/-- The pins with only `cancel` on them. -/
def cancelled : Inputs := ⟨false, false, 0#32, true, 0#4⟩

/-- A small state: `CFG`, `DIR`, `CUR`, `LINE`, `PACE` as given, no flag, no response, the given pins at the next edges. -/
def small (cfg : Bool) (dir : Direction) (cur : BitVec 2) (line : PhaseVector) (pace : Ticks) (script : List Inputs) :
    State :=
  { State.resetWith line with cfg := cfg, dir := dir, cur := cur, pace := pace, script := script }

/-! ### Words (95_test_vectors.md V-DEC; rules R80, R85, R86) -/

theorem test_config_row_refuses_reserved_bit : configRow.accepts 0x00000004#32 = false := by decide
theorem test_step_row_refuses_other_opcode : stepRow.accepts 0xC0000000#32 = false := by decide
theorem test_release_row_refuses_operand : releaseRow.accepts 0x80000001#32 = false := by decide
theorem test_ill_formed_words : [0x00000004#32, 0x20000000#32, 0x3FFFFFFC#32, 0x80000001#32, 0xBFFFFFFF#32, 0xC0000000#32,
    0xFFFFFFFF#32].any wellFormedWord = false := by decide
theorem test_well_formed_words : [0x00000000#32, 0x00000003#32, 0x40000000#32, 0x7FFFFFFF#32, 0x80000000#32].all
    wellFormedWord = true := by decide

theorem test_decode_config : decode 0b00000000000000000000000000000001#32 = .ok (.config 0b01#2) := by decide
theorem test_decode_config_refused_tag : decode 0b00000000000000000000000000000010#32 = .ok (.config 0b10#2) := by decide
theorem test_decode_step : decode 0b01000000000000000010011100010000#32 = .ok (.step 10000#30) := by decide
theorem test_decode_step_longest : decode 0b01111111111111111111111111111111#32 = .ok (.step 1073741823#30) := by decide
theorem test_decode_release : decode 0b10000000000000000000000000000000#32 = .ok .release := by decide
theorem test_decode_config_reserved : decode 0x3FFFFFFC#32 = .error .configReservedBits := by decide
theorem test_decode_release_reserved : decode 0xBFFFFFFF#32 = .error .releaseReservedBits := by decide
theorem test_decode_reserved_opcode : decode 0xFFFFFFFF#32 = .error .reservedOpcode := by decide
theorem test_table_word : decodeTableWord 32 0x40000003 = some (.step 3#30) ∧ decodeTableWord 32 0xC0000000 = none ∧
    decodeTableWord 33 0x40000003 = none := by decide

/-! ### Commands -/

/-- V-CF, third row: a fresh Stepper over an earlier one's lines. -/
theorem test_config_constructs : blockAfter (small false .clockwise 2#2 0x6#4 0#30 [command 0x00000001#32]) =
    some ⟨true, .counterClockwise, 0#2, 0x6#4, 0#30, 0b000#3, true, 0b000#3, 0#2⟩ := by decide

/-- V-CF, fourth row: tag 2 is refused and nothing else changes. -/
theorem test_config_refuses_tag : blockAfter (small false .counterClockwise 3#2 0xA#4 0#30 [command 0x00000002#32]) =
    some ⟨false, .counterClockwise, 3#2, 0xA#4, 0#30, 0b001#3, true, 0b001#3, 2#2⟩ := by decide

/-- V-ST, third row: the cursor wraps from 3 to 0 and `STEP 0` answers at once. -/
theorem test_step_wraps : blockAfter (small true .clockwise 3#2 0xA#4 0#30 [command 0x40000000#32]) =
    some ⟨true, .clockwise, 0#2, 0x9#4, 0#30, 0b000#3, true, 0b000#3, 0#2⟩ := by decide

/-- V-F3, third row: line 3 fails on call 3; lines 0 to 2 are written, the cursor has advanced. -/
theorem test_step_line_fault : blockAfter (small true .clockwise 2#2 0x6#4 0#30 [⟨false, true, 0x40000000#32, false, 0b1000#4⟩]) =
    some ⟨true, .clockwise, 3#2, 0x2#4, 0#30, 0b010#3, true, 0b010#3, 3#2⟩ := by decide

/-- V-RL, first row. -/
theorem test_release : blockAfter (small true .counterClockwise 3#2 0x6#4 0#30 [command 0x80000000#32]) =
    some ⟨false, .counterClockwise, 3#2, 0x6#4, 0#30, 0b000#3, true, 0b000#3, 0#2⟩ := by decide

/-- V-RL, second row. -/
theorem test_release_unconfigured : blockAfter (small false .clockwise 0#2 0x0#4 0#30 [command 0x80000000#32]) =
    some ⟨false, .clockwise, 0#2, 0x0#4, 0#30, 0b100#3, true, 0b101#3, 0#2⟩ := by decide

/-! ### Edges without a legal command -/

/-- V-EX, fourth row: the word's form is checked before the lifecycle. -/
theorem test_illegal_word : blockAfter (small true .clockwise 1#2 0x5#4 0#30 [command 0x00000004#32]) =
    some ⟨true, .clockwise, 1#2, 0x5#4, 0#30, 0b100#3, true, 0b011#3, 0#2⟩ := by decide

/-- V-PT, fifth row: `cancel` beats completion. -/
theorem test_cancel_beats_completion : blockAfter (small true .clockwise 1#2 0x5#4 1#30 [cancelled]) =
    some ⟨true, .clockwise, 1#2, 0x5#4, 0#30, 0b000#3, true, 0b100#3, 0#2⟩ := by decide

/-- V-EX, fifth row: a busy block does not accept a command. -/
theorem test_busy_ignores_command : blockAfter (small true .clockwise 1#2 0x5#4 7#30 [command 0x80000000#32]) =
    some ⟨true, .clockwise, 1#2, 0x5#4, 6#30, 0b000#3, false, 0b000#3, 0#2⟩ := by decide

/-- V-CN, second row: `cancel` on an idle block does nothing. -/
theorem test_cancel_idle : blockAfter (small true .clockwise 1#2 0x5#4 0#30 [cancelled]) =
    some ⟨true, .clockwise, 1#2, 0x5#4, 0#30, 0b000#3, false, 0b000#3, 0#2⟩ := by decide

/-- V-RS: reset beats a command and `cancel`; `LINE_RESET` = 0xF. -/
theorem test_reset : (State.resetWith 0xF#4).block = ⟨false, .clockwise, 0#2, 0xF#4, 0#30, 0b000#3, false, 0b000#3, 0#2⟩ ∧
    (nextOf (step (small true .counterClockwise 1#2 0x9#4 4#30 [⟨true, true, 0x40000001#32, true, 0#4⟩]))).map
      (fun t => (t.cfg, t.dir, t.cur, t.pace, t.rspv)) = some (false, .clockwise, 0#2, 0#30, false) := by decide

/-- From reset a presented `STEP` is refused by the lifecycle (V-EX, first row), a `CONFIG` constructs (P1, edge e1). -/
theorem test_fetch_from_reset :
    (nextOf (step (State.reset.withFetchWord 32 0x40000005))).map (fun t => (t.flt, t.rspc)) = some (0b100#3, 0b101#3) ∧
    (nextOf (step (State.reset.withFetchWord 32 0x00000000))).map (fun t => (t.cfg, t.rspv, t.rspc)) =
      some (true, true, 0b000#3) := by decide

/-- S5: the four line events of P1's edge e2. -/
theorem test_line_events : (nextOf (step (small true .clockwise 0#2 0x0#4 0#30 [command 0x40000003#32]))).map
    (fun t => (t.events, t.pace)) = some ([⟨0, true⟩, ⟨1, false⟩, ⟨2, true⟩, ⟨3, false⟩], 3#30) := by decide

/-! ### The assembler (S6, P2) -/

theorem test_assemble_seconds : parseLine "STEP 0.01s".toList = .line (.stepSeconds ⟨1, 2⟩) ∧
    assemble 1000000 (.stepSeconds ⟨1, 2⟩) = some 0x40002710#32 ∧
    assemble 32768 (.stepSeconds ⟨1, 2⟩) = some 0x40000148#32 := by decide
theorem test_assemble_program : assembleProgram 1000000
    ["CONFIG ccw ; start".toList, "step 0".toList, "".toList, "release".toList, "CONFIG".toList, ".word 0xC0000000".toList] =
    some [0x00000001#32, 0x40000000#32, 0x80000000#32, 0x00000000#32, 0xC0000000#32] := by decide
theorem test_assemble_refuses : assembleProgram 1000000 ["STEP 1073741824".toList] = none ∧
    assembleProgram 1000000 ["CONFIG #4".toList] = none ∧ parseLine "STEP -1".toList = .syntaxError := by decide

/-! ### Witnesses: for every statement with hypotheses, states and operands that meet them -/

/-- A configured, idle Clockwise block about to take the given pins, its lines at the last vector (index 3). -/
abbrev ready (script : List Inputs) : State := small true .clockwise 0#2 0x9#4 0#30 script

/-- An unconfigured, idle block about to take the given pins. -/
abbrev fresh (script : List Inputs) : State := small false .clockwise 0#2 0x0#4 0#30 script

/-- A Clockwise block in the pause of its first `STEP`. -/
abbrev busy (pace : Ticks) (script : List Inputs) : State := small true .clockwise 1#2 0x5#4 pace script

theorem witness_EncodeOfDecode : decode 0x00000003#32 = .ok (.config 3#2) ∧ decode 0x7FFFFFFF#32 = .ok (.step 0x3FFFFFFF#30) ∧
    decode 0x80000000#32 = .ok .release := by decide

theorem illegal_of_error {s : State} {why : IllegalWord} (h : s.AcceptsWord) (hd : decode s.pins.cmd = .error why) :
    s.AcceptsIllegal := ⟨h, fun i hi => by rw [hd] at hi; cases hi⟩

theorem witness_IllegalWords : (fresh [command 0xC0000000#32]).AcceptsIllegal ∧ (ready [command 0x00000004#32]).AcceptsIllegal ∧
    (ready [command 0xBFFFFFFF#32]).AcceptsIllegal :=
  ⟨illegal_of_error (why := .reservedOpcode) (by decide) (by decide),
    illegal_of_error (why := .configReservedBits) (by decide) (by decide),
    illegal_of_error (why := .releaseReservedBits) (by decide) (by decide)⟩

theorem witness_StepRunsDecoded : (fresh [command 0x00000001#32]).Accepts (.config 1#2) ∧
    (ready [command 0x7FFFFFFF#32]).Accepts (.step 0x3FFFFFFF#30) ∧ (ready [command 0x80000000#32]).Accepts .release := by
  decide

theorem witness_IdleEdgeChangesNothing : (ready [cancelled]).pins.rst = false ∧ (ready [cancelled]).pace = 0#30 ∧
    (ready [cancelled]).pins.cmdValid = false := by decide

/-- One witness per case: reset; busy; idle without a command; a command with equal `line_err`, unconfigured, no `STEP`. -/
theorem witness_PinsReadOnlyWhereNamed :
    (Inputs.mk true true 1#32 false 0#4).rst = (Inputs.mk true false 2#32 true 1#4).rst ∧
    ((busy 2#30 []).pace ≠ 0#30 ∧ (Inputs.mk false true 1#32 true 0#4).cancel = (Inputs.mk false false 2#32 true 1#4).cancel) ∧
    ((ready []).pace = 0#30 ∧ quiet.cmdValid = false ∧ (Inputs.mk false false 2#32 true 1#4).cmdValid = false) ∧
    ((ready []).pace = 0#30 ∧ (command 0x40000000#32).lineErr = (Inputs.mk false true 0x40000000#32 true 0#4).lineErr) ∧
    (fresh []).cfg = false ∧ (∀ p, decode 0x80000000#32 ≠ .ok (.step p)) := by
  refine ⟨by decide, by decide, by decide, by decide, by decide, fun p h => ?_⟩
  rw [show decode 0x80000000#32 = .ok .release by decide] at h
  cases h

theorem witness_ResetValues : (busy 4#30 [⟨true, true, 0x40000001#32, true, 0#4⟩]).pins.rst = true := by decide

theorem witness_NextPhase : (ready []).cfg = true := by decide

theorem witness_ConfigConstructs : (fresh []).cfg = false ∧ (fresh []).pace = 0#30 ∧ (0b00#2).getLsbD 1 = false ∧
    (0b01#2).getLsbD 1 = false := by decide

theorem witness_ConfigRefusesTag : (fresh []).cfg = false ∧ (0b10#2 = 0b10#2 ∨ 0b10#2 = 0b11#2) ∧
    (0b11#2 = 0b10#2 ∨ 0b11#2 = 0b11#2) := by decide

theorem witness_ReleaseCommand : (ready []).cfg = true ∧ (fresh []).cfg = false := by decide

theorem witness_StateErrors : (ready []).cfg = true ∧ (fresh []).cfg = false := by decide

theorem witness_StepEmits : (ready [command 0x40000000#32]).cfg = true ∧
    (ready [command 0x40000000#32]).pins.lineErr = 0b0000#4 := by decide

/-- The lowest failing line at its two ends: all lines failing (`j = 0`), only line 3 failing (`j = 3`). -/
theorem witness_StepLineFault :
    ((0b1111#4).getLsbD 0 = true ∧ ∀ i : Fin 4, i < 0 → (0b1111#4).getLsbD i.val = false) ∧
    ((0b1000#4).getLsbD 3 = true ∧ ∀ i : Fin 4, i < 3 → (0b1000#4).getLsbD i.val = false) ∧
    (ready [⟨false, true, 0x40000000#32, false, 0b1000#4⟩]).pins.lineErr = 0b1000#4 := by decide

theorem witness_CommandFrame : (∃ t, exec (.config 1#2) (fresh []) = .next t) ∧
    (∃ t, exec (.step 3#30) (ready [command 0x40000003#32]) = .next t) ∧ (∃ t, exec .release (ready []) = .next t) :=
  ⟨exists_next (by decide), exists_next (by decide), exists_next (by decide)⟩

theorem witness_PaceTick : ((busy 1#30 [cancelled]).pins.rst = false ∧ (busy 1#30 [cancelled]).pins.cancel = true) ∧
    ((busy 1#30 [quiet]).pins.rst = false ∧ (busy 1#30 [quiet]).pins.cancel = false ∧ (busy 1#30 [quiet]).pace = 1#30) ∧
    (busy 0x3FFFFFFF#30 [quiet]).pace ≠ 0#30 ∧ (busy 0x3FFFFFFF#30 [quiet]).pace ≠ 1#30 := by decide

theorem undisturbed_two {s : State} (h1 : (s.inputAt 1).rst = false ∧ (s.inputAt 1).cancel = false)
    (h2 : (s.inputAt 2).rst = false ∧ (s.inputAt 2).cancel = false) : s.Undisturbed 2 := by
  intro k hk hk2
  obtain rfl | rfl : k = 1 ∨ k = 2 := by omega
  · exact h1
  · exact h2

/-- PauseLength and StepAsOneTransition: pauses of 0 and 2 ticks. -/
theorem witness_PauseLength : ((ready [command 0x40000000#32]).Emits 0#30 ∧ (ready [command 0x40000000#32]).Undisturbed 0) ∧
    ((ready [command 0x40000002#32, quiet, quiet]).Emits 2#30 ∧
      (ready [command 0x40000002#32, quiet, quiet]).Undisturbed 2) :=
  ⟨⟨by decide, fun k h1 h2 => by omega⟩, by decide, undisturbed_two (by decide) (by decide)⟩

theorem witness_StepAsOneTransition : (ready [command 0x40000002#32, quiet, quiet]).Emits 2#30 ∧
    (ready [command 0x40000002#32, quiet, quiet]).Undisturbed (2#30).toNat := witness_PauseLength.2

/-- CancelledPause: a pause of 2 ticks cancelled at its last edge. -/
theorem witness_CancelledPause : (ready [command 0x40000002#32, quiet, cancelled]).Emits 2#30 ∧
    (ready [command 0x40000002#32, quiet, cancelled]).NoResetAfter 2 ∧
    (∀ j, 1 ≤ j → j < 2 → ((ready [command 0x40000002#32, quiet, cancelled]).inputAt j).cancel = false) ∧
    ((ready [command 0x40000002#32, quiet, cancelled]).inputAt 2).cancel = true := by
  refine ⟨by decide, fun k h1 h2 => ?_, fun j h1 h2 => ?_, by decide⟩
  · obtain rfl | rfl : k = 1 ∨ k = 2 := by omega
    · decide
    · decide
  · obtain rfl : j = 1 := by omega
    decide

theorem witness_HeldCancel : (ready [⟨false, true, 0x40000009#32, true, 0#4⟩, cancelled]).Emits 9#30 ∧ 9#30 ≠ 0#30 ∧
    ((ready [⟨false, true, 0x40000009#32, true, 0#4⟩, cancelled]).inputAt 1).rst = false ∧
    ((ready [⟨false, true, 0x40000009#32, true, 0#4⟩, cancelled]).inputAt 1).cancel = true := by decide

theorem witness_PauseZero : (ready [⟨false, true, 0x40000000#32, true, 0#4⟩]).Emits 0#30 := by decide

/-- ExactlyOneResponse: a `STEP 2`, with a reset ruled out for two edges; and an illegal word with operand bits 0. -/
theorem witness_ExactlyOneResponse : ((ready [command 0x40000002#32, quiet, quiet]).AcceptsWord ∧
      (ready [command 0x40000002#32, quiet, quiet]).NoResetAfter 2) ∧
    ((fresh [command 0xC0000000#32]).AcceptsWord ∧ (fresh [command 0xC0000000#32]).NoResetAfter 0) := by
  refine ⟨⟨by decide, fun k h1 h2 => ?_⟩, by decide, fun k h1 h2 => by omega⟩
  obtain rfl | rfl : k = 1 ∨ k = 2 := by omega
  · decide
  · decide

/-- CursorWriters: a `STEP`, a successful `CONFIG`, and an edge that is neither. -/
theorem witness_CursorWriters :
    ((∃ t, step (ready [command 0x40000002#32]) = .next t) ∧ (ready [command 0x40000002#32]).takesStep = true) ∧
    ((∃ t, step (fresh [command 0x00000001#32]) = .next t) ∧ (fresh [command 0x00000001#32]).Accepts (.config 1#2)) ∧
    ((∃ t, step (ready [command 0x80000000#32]) = .next t) ∧ (ready [command 0x80000000#32]).takesStep = false ∧
      ∀ g, (ready [command 0x80000000#32]).Accepts (.config g) → (ready [command 0x80000000#32]).cfg = true) :=
  ⟨⟨exists_next (by decide), by decide⟩, ⟨exists_next (by decide), by decide⟩, exists_next (by decide), by decide,
    fun _ _ => rfl⟩

/-- DirectionFixed: a configured block, and a `CONFIG` that changes `DIR`. -/
theorem witness_DirectionFixed : (∃ t, step (ready [command 0x00000001#32]) = .next t) ∧
    (nextOf (step (fresh [command 0x00000001#32]))).map (·.dir) = some .counterClockwise ∧
    (fresh [command 0x00000001#32]).dir = .clockwise := ⟨exists_next (by decide), by decide, by decide⟩

theorem witness_LineWriters : (∃ t, step (ready [command 0x80000000#32]) = .next t) ∧
    (ready [command 0x80000000#32]).pins.rst = false ∧ (ready [command 0x80000000#32]).takesStep = false :=
  ⟨exists_next (by decide), by decide, by decide⟩

theorem witness_FaultFlags : ((∃ t, step (fresh [command 0xC0000000#32]) = .next t) ∧
      (fresh [command 0xC0000000#32]).pins.rst = false) ∧
    ((∃ t, step (ready [⟨true, false, 0#32, false, 0#4⟩]) = .next t) ∧
      (ready [⟨true, false, 0#32, false, 0#4⟩]).pins.rst = true) :=
  ⟨⟨exists_next (by decide), by decide⟩, exists_next (by decide), by decide⟩

theorem witness_ResponseLastsOneCycle : (nextOf (step (ready [quiet]))).map (·.rspv) = some false := by decide

/-- A state in a pause meets the invariant (V-ST, first row, one tick on). -/
theorem witness_StepKeepsInvariant : (busy 2#30 [quiet]).Inv ∧ ∃ t, step (busy 2#30 [quiet]) = .next t := by
  refine ⟨⟨by decide, by decide, by decide, by decide, by decide, by decide, ?_, by decide⟩, exists_next (by decide)⟩
  intro x h
  cases h

theorem witness_LifecycleRefinement : (busy 2#30 [quiet]).Inv ∧ (fresh []).lifecycle = some .unconfigured ∧
    (ready []).lifecycle = some .idle ∧ (busy 2#30 []).lifecycle = some .pacing :=
  ⟨witness_StepKeepsInvariant.1, by decide, by decide, by decide⟩

/-- KthCallLaw: construction, then two edges of the lifetime, the first of which accepts a `STEP`. -/
theorem witness_KthCallLaw :
    (fresh [command 0x00000001#32, command 0x40000000#32, quiet]).Accepts (.config 1#2) ∧
    (fresh [command 0x00000001#32, command 0x40000000#32, quiet]).cfg = false ∧ (1#2).getLsbD 1 = false ∧
    ∃ s, step (fresh [command 0x00000001#32, command 0x40000000#32, quiet]) = .next s ∧ WithinLifetime 2 s := by
  refine ⟨by decide, by decide, by decide, _, rfl, (withinLifetime_succ rfl 1).2 ⟨rfl, by decide, ?_⟩⟩
  exact (withinLifetime_succ rfl 0).2 ⟨rfl, by decide, trivial⟩

theorem witness_OneMechanicalStep : (ready [command 0x40000003#32]).Emits 3#30 ∧
    (ready [command 0x40000003#32]).line = (ready [command 0x40000003#32]).lastVector := by decide

theorem witness_StepAfterLineFault :
    let s := ready [⟨false, true, 0x40000002#32, false, 0b0010#4⟩, command 0x40000002#32]
    s.Accepts (.step 2#30) ∧ s.cfg = true ∧ s.pins.lineErr ≠ 0b0000#4 ∧ (s.inputAt 1).rst = false ∧
    (s.inputAt 1).cmdValid = true ∧ decode (s.inputAt 1).cmd = .ok (.step 2#30) ∧ (s.inputAt 1).lineErr = 0b0000#4 ∧
    s.line = s.lastVector := by decide

theorem witness_ReleaseThenConfig :
    let s := ready [command 0x80000000#32, command 0x00000001#32]
    s.Accepts .release ∧ s.cfg = true ∧ (s.inputAt 1).rst = false ∧ (s.inputAt 1).cmdValid = true ∧
    decode (s.inputAt 1).cmd = .ok (.config 1#2) ∧ (1#2).getLsbD 1 = false := by decide

theorem witness_DirectionChangeCases : Direction.clockwise ≠ .counterClockwise := by decide

theorem witness_AssemblerWritesCommands : assemble 1000000 (.step 3) = some 0x40000003#32 ∧
    ∀ n, AsmLine.step 3 ≠ .word n := ⟨by decide, fun n h => by cases h⟩

end Sys2Proof.Tests
end

section
/-! Proofs of the family on the state: the output pins, the state after reset, a fresh Stepper, and the sticky flags. -/

namespace Sys2Proof.Machine

/-! ### The output pins (rule R29) -/

theorem State.outputs_busy_iff (s : State) : s.outputs.busy = true ↔ s.pace ≠ 0#30 := decide_eq_true_iff

theorem State.outputs_cmdReady_iff (s : State) : s.outputs.cmdReady = true ↔ s.pace = 0#30 := decide_eq_true_iff

theorem State.outputs_cmdReady_eq_not_busy (s : State) : s.outputs.cmdReady = !s.outputs.busy := by
  rw [Bool.eq_iff_iff, Bool.not_eq_true', ← Bool.not_eq_true, s.outputs_busy_iff, s.outputs_cmdReady_iff, not_not]

/-! ### Commands and the tick of the pause, by the state they meet -/

theorem execConfig_configured {s : State} (g : BitVec 2) (h : s.cfg = true) :
    execConfig g s = .next (s.beginEdge.raise .stateErr 0#2) := by
  simp [execConfig, h]

theorem execConfig_refused {s : State} {g : BitVec 2} (h : s.cfg = false) (hg : g.getLsbD 1 = true) :
    execConfig g s = .next (s.beginEdge.raise .configErr g) := by
  simp [execConfig, h, (directionOfTag_none g).2 hg]

theorem execConfig_constructs {s : State} {g : BitVec 2} (h : s.cfg = false) (hg : g.getLsbD 1 = false) :
    execConfig g s = .next
      ({ s.beginEdge with dir := Direction.ofBit (g.getLsbD 0), cur := 0#2, cfg := true }.respond .ok 0#2) := by
  simp [execConfig, h, directionOfTag_some hg]

theorem execRelease_unconfigured {s : State} (h : s.cfg = false) :
    execRelease s = .next (s.beginEdge.raise .stateErr 0#2) := by
  simp [execRelease, h]

theorem execRelease_releases {s : State} (h : s.cfg = true) :
    execRelease s = .next ({ s.beginEdge with cfg := false }.respond .ok 0#2) := by
  simp [execRelease, h]

theorem paceTick_cancelled {s : State} (h : s.pins.cancel = true) :
    paceTick s = { s.beginEdge with pace := 0#30 }.respond .cancelled 0#2 := by
  simp [paceTick, h]

theorem paceTick_last {s : State} (h : s.pins.cancel = false) (hp : s.pace = 1#30) :
    paceTick s = { s.beginEdge with pace := 0#30 }.respond .ok 0#2 := by
  simp [paceTick, h, hp]

theorem paceTick_counts {s : State} (h : s.pins.cancel = false) (hp : s.pace ≠ 1#30) :
    paceTick s = { s.beginEdge with pace := s.pace - 1#30 } := by
  simp [paceTick, h, hp]

theorem step_command {s : State} {i : Instr} (h : s.Accepts i) : step s = finishEdge (exec i s) := by
  obtain ⟨⟨hr, hp, hv⟩, hd⟩ := h
  simp only [step, State.edgeKind_command hr hp hv, hd]

/-! ### Another value of `FLT` -/

/-- `s` with the sticky flags `f`. -/
def State.withFlt (s : State) (f : BitVec 3) : State := { s with flt := f }

@[simp] theorem State.withFlt_pins (s : State) (f : BitVec 3) : (s.withFlt f).pins = s.pins := rfl

theorem State.writeLines_withFlt (s : State) (f : BitVec 3) (v : PhaseVector) (j : Nat) :
    (s.withFlt f).writeLines v j = (s.writeLines v j).withFlt f := by
  unfold State.writeLines
  simp only [List.foldl_cons, List.foldl_nil]
  split_ifs <;> rfl

theorem State.afterLines_withFlt (s : State) (f : BitVec 3) : (s.withFlt f).afterLines = s.afterLines.withFlt f :=
  State.writeLines_withFlt s.beginEdge.nextPhase.2 f _ _

/-- Before a `STEP` answers, the response code is 0. -/
@[simp] theorem State.afterLines_rspc (s : State) : s.afterLines.rspc = 0b000#3 := by simp [State.afterLines]

/-! ### What an edge does with `FLT` -/

/-- From `s`, whatever its sticky flags, `o` goes to one state `t` with a response code `x`, and only adds the flag of `x`
to the flags: they are not read and not cleared (rule R28). -/
def AddsOnlyFlagOfResponse (o : State → Host.Outcome State Fault Refusal) (s : State) : Prop :=
  ∃ (x : ResponseCode) (t : State), t.rspc = x.bits ∧ ∀ f, o (s.withFlt f) = .next (t.withFlt (f ||| x.stickyFlag))

/-- An operation that ends in `raise x`. -/
theorem AddsOnlyFlagOfResponse.of_raise {o : State → Host.Outcome State Fault Refusal} {s : State} (t : State)
    (x : ResponseCode) (n : BitVec 2) (h : ∀ f, o (s.withFlt f) = .next ((t.withFlt f).raise x n)) :
    AddsOnlyFlagOfResponse o s :=
  ⟨x, t.raise x n, rfl, h⟩

/-- An operation that keeps `FLT` and whose response code has no flag; with no response the code is that of `OK`. -/
theorem AddsOnlyFlagOfResponse.of_noFlag {o : State → Host.Outcome State Fault Refusal} {s : State} (t : State)
    (x : ResponseCode) (hx : x.stickyFlag = 0b000#3) (hc : t.rspc = x.bits)
    (h : ∀ f, o (s.withFlt f) = .next (t.withFlt f)) :
    AddsOnlyFlagOfResponse o s :=
  ⟨x, t, hc, fun f => by rw [hx, BitVec.or_zero, h f]⟩

theorem finishEdge_addsOnlyFlag {o : State → Host.Outcome State Fault Refusal} {s : State}
    (h : AddsOnlyFlagOfResponse o s) : AddsOnlyFlagOfResponse (fun u => finishEdge (o u)) s := by
  obtain ⟨x, t, hc, ht⟩ := h
  exact ⟨x, t.nextEdge, hc, fun f => congrArg finishEdge (ht f)⟩

theorem execConfig_addsOnlyFlag (g : BitVec 2) (s : State) : AddsOnlyFlagOfResponse (execConfig g) s := by
  cases hs : s.cfg with
  | true => exact .of_raise s.beginEdge .stateErr 0#2 fun f => execConfig_configured (s := s.withFlt f) g hs
  | false =>
    cases hg : g.getLsbD 1 with
    | true => exact .of_raise s.beginEdge .configErr g fun f => execConfig_refused (s := s.withFlt f) hs hg
    | false =>
      refine .of_noFlag
        ({ s.beginEdge with dir := Direction.ofBit (g.getLsbD 0), cur := 0#2, cfg := true }.respond .ok 0#2) .ok rfl rfl
        fun f => ?_
      exact execConfig_constructs (s := s.withFlt f) hs hg

theorem execRelease_addsOnlyFlag (s : State) : AddsOnlyFlagOfResponse execRelease s := by
  cases hs : s.cfg with
  | false => exact .of_raise s.beginEdge .stateErr 0#2 fun f => execRelease_unconfigured (s := s.withFlt f) hs
  | true =>
    refine .of_noFlag ({ s.beginEdge with cfg := false }.respond .ok 0#2) .ok rfl rfl fun f => ?_
    exact execRelease_releases (s := s.withFlt f) hs

theorem execStep_addsOnlyFlag (p : Ticks) (s : State) : AddsOnlyFlagOfResponse (execStep p) s := by
  cases hs : s.cfg with
  | false => exact .of_raise s.beginEdge .stateErr 0#2 fun f => execStep_unconfigured (s := s.withFlt f) p hs
  | true =>
    by_cases he : s.pins.lineErr = 0b0000#4
    · have hstep (f : BitVec 3) := execStep_emits (s := s.withFlt f) p hs he
      simp only [State.afterLines_withFlt] at hstep
      by_cases hp : p = 0#30
      · refine .of_noFlag ({ s.afterLines with pace := p }.respond .ok 0#2) .ok rfl rfl fun f => ?_
        rw [hstep f, if_pos hp]
        rfl
      · refine .of_noFlag { s.afterLines with pace := p } .ok rfl s.afterLines_rspc fun f => ?_
        rw [hstep f, if_neg hp]
        rfl
    · refine .of_raise s.afterLines .ioErr (BitVec.ofNat 2 (lowestFailingLine s.pins.lineErr)) fun f => ?_
      rw [execStep_lineFault (s := s.withFlt f) p hs he, State.afterLines_withFlt, State.withFlt_pins]

theorem exec_addsOnlyFlag (i : Instr) (s : State) : AddsOnlyFlagOfResponse (exec i) s := by
  cases i with
  | config g => exact execConfig_addsOnlyFlag g s
  | step p => exact execStep_addsOnlyFlag p s
  | release => exact execRelease_addsOnlyFlag s

theorem paceTick_addsOnlyFlag (s : State) : AddsOnlyFlagOfResponse (fun u => .next (paceTick u)) s := by
  cases hc : s.pins.cancel with
  | true =>
    refine .of_noFlag ({ s.beginEdge with pace := 0#30 }.respond .cancelled 0#2) .cancelled rfl rfl fun f => ?_
    exact congrArg _ (paceTick_cancelled (s := s.withFlt f) hc)
  | false =>
    by_cases hp : s.pace = 1#30
    · refine .of_noFlag ({ s.beginEdge with pace := 0#30 }.respond .ok 0#2) .ok rfl rfl fun f => ?_
      exact congrArg _ (paceTick_last (s := s.withFlt f) hc hp)
    · refine .of_noFlag { s.beginEdge with pace := s.pace - 1#30 } .ok rfl rfl fun f => ?_
      exact congrArg _ (paceTick_counts (s := s.withFlt f) hc hp)

/-- The pins and `PACE`, which choose the edge's branch, do not depend on `FLT`; each branch but reset only adds a flag. -/
theorem step_addsOnlyFlag {s : State} (hr : s.pins.rst = false) : AddsOnlyFlagOfResponse step s := by
  by_cases hp : s.pace = 0#30
  · cases hv : s.pins.cmdValid with
    | false => exact .of_noFlag s.beginEdge.nextEdge .ok rfl rfl fun f => step_idle (s := s.withFlt f) hr hp hv
    | true =>
      cases hd : decode s.pins.cmd with
      | ok i =>
        obtain ⟨x, t, hc, ht⟩ := finishEdge_addsOnlyFlag (exec_addsOnlyFlag i s)
        exact ⟨x, t, hc, fun f => (step_command (s := s.withFlt f) ⟨⟨hr, hp, hv⟩, hd⟩).trans (ht f)⟩
      | error why =>
        exact .of_raise s.beginEdge.nextEdge .illegalCmd 0#2 fun f =>
          step_illegal (s := s.withFlt f) ⟨hr, hp, hv⟩ hd
  · obtain ⟨x, t, hc, ht⟩ := finishEdge_addsOnlyFlag (paceTick_addsOnlyFlag s)
    exact ⟨x, t, hc, fun f => (step_pace (s := s.withFlt f) hr hp).trans (ht f)⟩

/-- A step without reset adds to `FLT` the flag of the code it leaves on the response port. -/
theorem step_flt {s t : State} (hr : s.pins.rst = false) (h : step s = .next t) :
    ∃ x : ResponseCode, t.rspc = x.bits ∧ t.flt = s.flt ||| x.stickyFlag := by
  obtain ⟨x, u, hc, hu⟩ := step_addsOnlyFlag hr
  obtain rfl : u.withFlt (s.flt ||| x.stickyFlag) = t := Host.Outcome.next.inj ((hu s.flt).symm.trans h)
  exact ⟨x, hc, rfl⟩

/-- Changing `FLT` before a step changes nothing but `FLT` after it. -/
theorem step_withFlt {s t : State} (f : BitVec 3) (h : step s = .next t) :
    ∃ g, step (s.withFlt f) = .next (t.withFlt g) := by
  cases hr : s.pins.rst with
  | true =>
    rw [step_reset hr] at h
    obtain rfl := Host.Outcome.next.inj h
    exact ⟨0b000#3, step_reset (s := s.withFlt f) hr⟩
  | false =>
    obtain ⟨x, u, -, hu⟩ := step_addsOnlyFlag hr
    obtain rfl : u.withFlt (s.flt ||| x.stickyFlag) = t := Host.Outcome.next.inj ((hu s.flt).symm.trans h)
    exact ⟨f ||| x.stickyFlag, hu f⟩

/-! ### The obligations -/

/-- Settles O35: an edge without reset only adds the flag of its response to `FLT`, whatever `FLT` is. -/
theorem faultFlags : Obligations.FaultFlags := by
  refine ⟨fun s t hr h => ?_, fun s t hr h => ?_, fun s t f h => ?_, fun _ => rfl⟩
  · obtain ⟨x, hc, hf⟩ := step_flt hr h
    refine ⟨x, hc, hf.trans ?_⟩
    cases x <;> rfl
  · rw [step_reset hr] at h
    obtain rfl := Host.Outcome.next.inj h
    exact resetEdge_flt s
  · obtain ⟨g, hg⟩ := step_withFlt f h
    exact ⟨t.withFlt g, hg, rfl⟩

/-- Settles O10. -/
theorem outputPins : Obligations.OutputPins := fun s =>
  ⟨rfl, s.outputs_busy_iff, s.outputs_cmdReady_iff, s.outputs_cmdReady_eq_not_busy, rfl, rfl, rfl, rfl, rfl⟩

/-- Settles O11: the reset branch is taken first, whatever the state. -/
theorem resetValues : Obligations.ResetValues :=
  ⟨fun _ hr => ⟨_, step_reset hr, rfl⟩, rfl, (State.outputs_cmdReady_iff _).2 rfl⟩

/-- Settles O18, by the branch of `CONFIG` that constructs a Stepper. -/
theorem configConstructs : Obligations.ConfigConstructs := by
  intro s g hs hp hg
  refine ⟨_, execConfig_constructs hs hg, ?_, rfl⟩
  simp [State.block, hp, Direction.ofBit, ResponseCode.bits]

end Sys2Proof.Machine
end

section
/-! Proofs of the family on the memory: the contents of the phase ROM, and how its addresses are formed. -/

namespace Sys2Proof.Machine

/-! ### ROM addresses (rule R51) -/

@[simp] theorem Direction.bit_ofBit (b : Bool) : (Direction.ofBit b).bit = BitVec.ofBool b := by
  cases b <;> rfl

/-- The concatenation `{d, i}` as a number: the index is below 4, so the two fields do not overlap. -/
theorem romAddress_toNat (d : Direction) (i : BitVec 2) :
    (romAddress d i).toNat = 4 * d.bit.toNat + i.toNat := by
  calc (romAddress d i).toNat
      = d.bit.toNat <<< 2 ||| i.toNat := BitVec.toNat_append d.bit i
    _ = d.bit.toNat <<< 2 + i.toNat := (Nat.shiftLeft_add_eq_or_of_lt i.isLt _).symm
    _ = 4 * d.bit.toNat + i.toNat := by rw [Nat.shiftLeft_eq, Nat.mul_comm]

/-- Bit 2 of an address is its direction and the low two bits are its index. -/
theorem romAddress_of_fields (a : RomAddr) :
    romAddress (Direction.ofBit (a.getLsbD 2)) (a.extractLsb' 0 2) = a := by
  have hdir : (Direction.ofBit (a.getLsbD 2)).bit = a.extractLsb' 2 1 := by
    ext i hi
    obtain rfl : i = 0 := by omega
    simp
  calc romAddress (Direction.ofBit (a.getLsbD 2)) (a.extractLsb' 0 2)
      = a.extractLsb' 2 1 ++ a.extractLsb' 0 2 := by rw [romAddress, hdir]
    _ = a.extractLsb' 0 3 := BitVec.extractLsb'_append_extractLsb'_eq_extractLsb' rfl
    _ = a := BitVec.extractLsb'_eq_self

/-! ### The obligations -/

/-- Settles O13. -/
theorem romAddressing : Obligations.RomAddressing :=
  ⟨romAddress_toNat, fun a => ⟨_, _, romAddress_of_fields a⟩⟩

/-- Settles O12: the table of rule R52 and its 32-bit constant, compared word by word at the eight addresses. -/
theorem romContents : Obligations.RomContents := by
  refine ⟨?slotLists, ?constant⟩
  case slotLists => decide
  case constant => decide

end Sys2Proof.Machine
end

section
/-! Proofs of the family on the encoding: the decoder and the encoder are inverse to each other, the opcode map is the
decoder, the illegal words, and which pins an edge reads. -/

namespace Sys2Proof

/-! ### A word and its fields (rules R80 to R83) -/

/-- A word is its opcode followed by its operand field, so these two determine it. -/
theorem eq_of_fields {v w : Word} (hop : opField v = opField w) (harg : argField v = argField w) : v = w := by
  have happend (u : Word) : opField u ++ argField u = u := BitVec.extractLsb'_append_extractLsb' (w := 2) (len := 30)
  rw [← happend v, ← happend w, hop, harg]

/-- In format C the operand field is its reserved bits followed by the tag, so these two determine it. -/
theorem argField_eq_of_fields {v w : Word} (hrsv : configReservedField v = configReservedField w)
    (htag : dirtagField v = dirtagField w) : argField v = argField w := by
  have happend (u : Word) : configReservedField u ++ dirtagField u = argField u :=
    BitVec.extractLsb'_append_extractLsb'_eq_extractLsb' rfl
  rw [← happend v, ← happend w, hrsv, htag]

@[simp] theorem opField_encode_config (g : BitVec 2) : opField (encode (.config g)) = 0b00#2 := by
  revert g; decide

@[simp] theorem configReservedField_encode_config (g : BitVec 2) : configReservedField (encode (.config g)) = 0#28 := by
  revert g; decide

@[simp] theorem dirtagField_encode_config (g : BitVec 2) : dirtagField (encode (.config g)) = g :=
  BitVec.extractLsb'_append_eq_right

@[simp] theorem opField_encode_step (p : Ticks) : opField (encode (.step p)) = 0b01#2 :=
  BitVec.extractLsb'_append_eq_left

@[simp] theorem argField_encode_step (p : Ticks) : argField (encode (.step p)) = p :=
  BitVec.extractLsb'_append_eq_right

theorem encode_config_of_fields {w : Word} (hop : opField w = 0b00#2) (hrsv : configReservedField w = 0#28) :
    encode (.config (dirtagField w)) = w :=
  eq_of_fields (by simp [hop]) (argField_eq_of_fields (by simp [hrsv]) (by simp))

theorem encode_step_of_fields {w : Word} (hop : opField w = 0b01#2) : encode (.step (argField w)) = w :=
  eq_of_fields (by simp [hop]) (by simp)

theorem encode_release_of_fields {w : Word} (hop : opField w = 0b10#2) (harg : argField w = 0#30) :
    encode .release = w :=
  eq_of_fields hop.symm harg.symm

/-! ### Decoding by the fields (rules R86, R87) -/

/-- Everything a word can be: the two opcodes with reserved bits are legal only where those are 0. -/
theorem decode_cases (w : Word) :
    (opField w = 0b01#2 ∧ decode w = .ok (.step (argField w))) ∨
    (opField w = 0b00#2 ∧ configReservedField w = 0#28 ∧ decode w = .ok (.config (dirtagField w))) ∨
    (opField w = 0b10#2 ∧ argField w = 0#30 ∧ decode w = .ok .release) ∨
    (opField w = 0b11#2 ∧ decode w = .error .reservedOpcode) ∨
    (opField w = 0b00#2 ∧ configReservedField w ≠ 0#28 ∧ decode w = .error .configReservedBits) ∨
    (opField w = 0b10#2 ∧ argField w ≠ 0#30 ∧ decode w = .error .releaseReservedBits) := by
  have hop : ∀ op : BitVec 2, op ≠ 0b01#2 → op ≠ 0b00#2 → op ≠ 0b10#2 → op = 0b11#2 := by decide
  unfold decode
  split_ifs <;> simp_all

theorem decode_encode (i : Instr) : decode (encode i) = .ok i := by
  cases i with
  | config g => simp [decode]
  | step p => simp [decode]
  | release => decide

theorem encode_of_decode {w : Word} {i : Instr} (h : decode w = .ok i) : encode i = w := by
  rcases decode_cases w with ⟨hop, hd⟩ | ⟨hop, hrsv, hd⟩ | ⟨hop, harg, hd⟩ |
      ⟨-, hd⟩ | ⟨-, -, hd⟩ | ⟨-, -, hd⟩ <;>
    rw [hd] at h <;> cases h
  · exact encode_step_of_fields hop
  · exact encode_config_of_fields hop hrsv
  · exact encode_release_of_fields hop harg

/-- The decoder and the encoder are inverse to each other. -/
theorem decode_eq_ok_iff {w : Word} {i : Instr} : decode w = .ok i ↔ encode i = w :=
  ⟨encode_of_decode, fun h => h ▸ decode_encode i⟩

/-- An illegal word is one of the three classes of rule R86. -/
theorem decode_ne_ok_iff (w : Word) : (∀ i, decode w ≠ .ok i) ↔
    (opField w = 0b11#2 ∨ (opField w = 0b00#2 ∧ configReservedField w ≠ 0#28) ∨
      (opField w = 0b10#2 ∧ argField w ≠ 0#30)) := by
  rcases decode_cases w with ⟨hop, hd⟩ | ⟨hop, hrsv, hd⟩ | ⟨hop, harg, hd⟩ |
      ⟨hop, hd⟩ | ⟨hop, hrsv, hd⟩ | ⟨hop, harg, hd⟩
  · simp [hop, hd]
  · simp [hop, hrsv, hd]
  · simp [hop, harg, hd]
  · simp [hop, hd]
  · simp [hop, hrsv, hd]
  · simp [hop, harg, hd]

/-- The words with opcode `0b11` are the topmost ones (rule R86 (a)). -/
theorem opField_eq_reserved_iff (w : Word) : opField w = 0b11#2 ↔ 0xC0000000#32 ≤ w := by
  have hop : (opField w).toNat = w.toNat / 2 ^ 30 % 2 ^ 2 := by simp [opField, Nat.shiftRight_eq_div_pow]
  rw [← BitVec.toNat_inj, BitVec.le_def, hop]
  simp only [BitVec.toNat_ofNat]
  omega

/-! ### The opcode map (rule R85) -/

theorem OpcodeRow.accepts_iff (r : OpcodeRow) (w : Word) : r.accepts w = true ↔ w &&& r.mask = r.pattern := beq_iff_eq

/-- The encoding of an instruction lies in its row, a row of the map. -/
theorem Instr.rowMatch (i : Instr) : Laws.RowMatch.Statement i := by
  cases i with
  | config g => exact Laws.RowMatch.config g
  | step p => exact Laws.RowMatch.step p
  | release => exact Laws.RowMatch.release

/-- Where the mask is all ones, the word holds the pattern's bits. -/
theorem field_of_mask {w mask pattern : Word} (start len : Nat) (hm : mask.extractLsb' start len = BitVec.allOnes len)
    (h : w &&& mask = pattern) : w.extractLsb' start len = pattern.extractLsb' start len := by
  rw [← h, BitVec.extractLsb'_and, hm, BitVec.and_allOnes]

theorem configRow_accepts_iff (w : Word) : configRow.accepts w = true ↔ decode w = .ok (.config (dirtagField w)) := by
  rw [decode_eq_ok_iff]
  constructor
  · intro h
    have hmask := (configRow.accepts_iff w).1 h
    exact encode_config_of_fields (field_of_mask 30 2 (by decide) hmask) (field_of_mask 2 28 (by decide) hmask)
  · exact fun h => h ▸ (Instr.config _).rowMatch.2

theorem stepRow_accepts_iff (w : Word) : stepRow.accepts w = true ↔ decode w = .ok (.step (argField w)) := by
  rw [decode_eq_ok_iff]
  exact ⟨fun h => encode_step_of_fields (field_of_mask 30 2 (by decide) ((stepRow.accepts_iff w).1 h)),
    fun h => h ▸ (Instr.step _).rowMatch.2⟩

theorem releaseRow_accepts_iff (w : Word) : releaseRow.accepts w = true ↔ decode w = .ok .release := by
  rw [decode_eq_ok_iff, OpcodeRow.accepts_iff]
  exact (BitVec.and_allOnes (x := w)).congr_left.trans eq_comm

/-- A row of the map accepts the words of its own command and no others. -/
theorem row_accepts_iff {r : OpcodeRow} (hr : r ∈ opcodeMap) (w : Word) :
    r.accepts w = true ↔ ∃ i, decode w = .ok i ∧ i.row = r := by
  constructor
  · intro h
    simp only [opcodeMap, List.mem_cons, List.not_mem_nil, or_false] at hr
    obtain rfl | rfl | rfl := hr
    · exact ⟨_, (configRow_accepts_iff w).1 h, rfl⟩
    · exact ⟨_, (stepRow_accepts_iff w).1 h, rfl⟩
    · exact ⟨_, (releaseRow_accepts_iff w).1 h, rfl⟩
  · rintro ⟨i, hd, rfl⟩
    exact encode_of_decode hd ▸ i.rowMatch.2

theorem wellFormedWord_iff (w : Word) : wellFormedWord w = true ↔ ∃ i, decode w = .ok i := by
  rw [wellFormedWord, List.any_eq_true]
  constructor
  · rintro ⟨r, hr, h⟩
    obtain ⟨i, hd, -⟩ := (row_accepts_iff hr w).1 h
    exact ⟨i, hd⟩
  · rintro ⟨i, hd⟩
    exact ⟨i.row, i.rowMatch.1, (row_accepts_iff i.rowMatch.1 w).2 ⟨i, hd, rfl⟩⟩

/-- The three patterns are disjoint: a word's rows are all the row of what it decodes to. -/
theorem opcodeMap_filter_length_le_one (w : Word) : (opcodeMap.filter (·.accepts w)).length ≤ 1 := by
  cases hd : decode w with
  | error why =>
    have hnone : opcodeMap.filter (·.accepts w) = [] := by
      rw [List.filter_eq_nil_iff]
      intro r hr h
      obtain ⟨i, hi, -⟩ := (row_accepts_iff hr w).1 h
      cases hd.symm.trans hi
    simp [hnone]
  | ok i =>
    have hone : opcodeMap.filter (·.accepts w) = opcodeMap.filter (· = i.row) := by
      apply List.filter_congr
      intro r hr
      rw [Bool.eq_iff_iff, row_accepts_iff hr, hd, decide_eq_true_iff]
      simp [eq_comm]
    have hrow : ∀ r ∈ opcodeMap, (opcodeMap.filter (· = r)).length ≤ 1 := by decide
    rw [hone]
    exact hrow i.row i.rowMatch.1

end Sys2Proof

namespace Sys2Proof.Machine

/-! ### The obligations on words -/

/-- Settles O2: the fields of an encoding are the opcode and the operand it was made from. -/
theorem decodeOfEncode : Obligations.DecodeOfEncode := decode_encode

/-- Settles O3: the fields a legal word was decoded by make up the whole word. -/
theorem encodeOfDecode : Obligations.EncodeOfDecode := fun _ _ => encode_of_decode

/-- Settles O4: each row accepts the words of its own command, and a word is the word of at most one. -/
theorem opcodeMapIsDecode : Obligations.OpcodeMapIsDecode := fun w =>
  ⟨configRow_accepts_iff w, stepRow_accepts_iff w, releaseRow_accepts_iff w, opcodeMap_filter_length_le_one w,
    wellFormedWord_iff w⟩

/-- An accepted illegal word raises `ILLEGAL_CMD` (rule R154). -/
theorem step_of_acceptsIllegal {s : State} (h : s.AcceptsIllegal) :
    step s = .next (s.beginEdge.raise .illegalCmd 0#2).nextEdge := by
  obtain ⟨hw, hno⟩ := h
  cases hd : decode s.pins.cmd with
  | ok i => exact absurd hd (hno i)
  | error why => exact step_illegal hw hd

/-- Settles O5: the classes are those the decoder's branches end in, and the step of an accepted word raises the fault. -/
theorem illegalWords : Obligations.IllegalWords := by
  refine ⟨fun w => ?_, fun s h => ⟨_, step_of_acceptsIllegal h, rfl⟩, by decide, by decide, by decide⟩
  rw [decode_ne_ok_iff, opField_eq_reserved_iff]
  rfl

/-! ### The schedule -/

theorem paceTick_schedule (s : State) : (paceTick s).script = s.script ∧ (paceTick s).edge = s.edge := by
  rcases paceTick_cases s with ⟨-, e⟩ | ⟨-, -, e⟩ | ⟨-, -, e⟩ <;> rw [e] <;> exact ⟨rfl, rfl⟩

theorem exec_next (i : Instr) (s : State) : ∃ t, exec i s = .next t := by
  cases i with
  | config g => rcases execConfig_cases g s with ⟨-, e⟩ | ⟨-, -, e⟩ | ⟨-, -, e⟩ <;> exact ⟨_, e⟩
  | step p => rcases execStep_cases p s with ⟨-, e⟩ | ⟨-, -, e⟩ | ⟨-, -, e⟩ <;> exact ⟨_, e⟩
  | release => rcases execRelease_cases s with ⟨-, e⟩ | ⟨-, e⟩ <;> exact ⟨_, e⟩

/-- Every branch keeps the schedule, and the edge around it moves it by one entry. -/
theorem step_eq_nextEdge (s : State) :
    ∃ t : State, step s = .next t.nextEdge ∧ t.script = s.script ∧ t.edge = s.edge := by
  rcases step_cases s with ⟨-, e⟩ | ⟨-, -, e⟩ | ⟨i, -, -, e⟩ | ⟨why, -, -, e⟩ | ⟨-, -, -, e⟩
  · exact ⟨_, e, rfl, rfl⟩
  · exact ⟨_, e, paceTick_schedule s⟩
  · obtain ⟨t, ht⟩ := exec_next i s
    exact ⟨t, by rw [e, ht, finishEdge_next], exec_schedule ht⟩
  · exact ⟨_, e, rfl, rfl⟩
  · exact ⟨_, e, rfl, rfl⟩

/-- Settles O7. Each branch of an edge ends in a next state. -/
theorem stepNeverStops : Obligations.StepNeverStops := by
  intro s
  obtain ⟨t, e, hscript, hedge⟩ := step_eq_nextEdge s
  exact ⟨t.nextEdge, e, congrArg List.tail hscript, congrArg (· + 1) hedge⟩

/-- Settles O8, by the last branch of the edge. -/
theorem idleEdgeChangesNothing : Obligations.IdleEdgeChangesNothing := fun _ hr hp hv =>
  ⟨_, step_idle hr hp hv, rfl⟩

/-! ### Other pins at the next edge

An operation that does not read the pins in which `c` differs from `s.pins` ends in the same state, but for the entry of
the schedule that the edge then takes away. -/

theorem State.writeLines_withPins (s : State) (c : Inputs) (v : PhaseVector) (j : Nat) :
    (s.withPins c).writeLines v j = (s.writeLines v j).withPins c := by
  unfold State.writeLines
  simp only [List.foldl_cons, List.foldl_nil]
  split_ifs <;> rfl

theorem State.afterLines_withPins {s : State} {c : Inputs} (he : c.lineErr = s.pins.lineErr) :
    (s.withPins c).afterLines = s.afterLines.withPins c := by
  rw [State.afterLines, State.pins_withPins, he]
  exact State.writeLines_withPins s.beginEdge.nextPhase.2 c _ _

theorem paceTick_withPins {s : State} {c : Inputs} (hc : c.cancel = s.pins.cancel) :
    paceTick (s.withPins c) = (paceTick s).withPins c := by
  rcases paceTick_cases s with ⟨h, e⟩ | ⟨h, hp, e⟩ | ⟨h, hp, e⟩
  · rw [e, paceTick_cancelled (s := s.withPins c) (hc.trans h)]; rfl
  · rw [e, paceTick_last (s := s.withPins c) (hc.trans h) hp]; rfl
  · rw [e, paceTick_counts (s := s.withPins c) (hc.trans h) hp]; rfl

theorem finishEdge_execConfig_withPins (g : BitVec 2) (s : State) (c : Inputs) :
    finishEdge (execConfig g (s.withPins c)) = finishEdge (execConfig g s) := by
  rcases execConfig_cases g s with ⟨h, e⟩ | ⟨h, hg, e⟩ | ⟨h, hg, e⟩
  · rw [e, execConfig_configured (s := s.withPins c) g h]; rfl
  · rw [e, execConfig_refused (s := s.withPins c) h hg]; rfl
  · rw [e, execConfig_constructs (s := s.withPins c) h hg]; rfl

theorem finishEdge_execRelease_withPins (s : State) (c : Inputs) :
    finishEdge (execRelease (s.withPins c)) = finishEdge (execRelease s) := by
  rcases execRelease_cases s with ⟨h, e⟩ | ⟨h, e⟩
  · rw [e, execRelease_unconfigured (s := s.withPins c) h]; rfl
  · rw [e, execRelease_releases (s := s.withPins c) h]; rfl

theorem finishEdge_execStep_withPins (p : Ticks) {s : State} {c : Inputs}
    (hc : c.lineErr = s.pins.lineErr ∨ s.cfg = false) :
    finishEdge (execStep p (s.withPins c)) = finishEdge (execStep p s) := by
  cases hs : s.cfg with
  | false => rw [execStep_unconfigured p hs, execStep_unconfigured (s := s.withPins c) p hs]; rfl
  | true =>
    replace hc : c.lineErr = s.pins.lineErr := hc.resolve_right (by simp [hs])
    by_cases he : s.pins.lineErr = 0b0000#4
    · rw [execStep_emits p hs he, execStep_emits (s := s.withPins c) p hs (hc.trans he), State.afterLines_withPins hc]
      split_ifs <;> rfl
    · rw [execStep_lineFault p hs he, execStep_lineFault (s := s.withPins c) p hs (hc ▸ he),
        State.afterLines_withPins hc, State.pins_withPins, hc]
      rfl

theorem finishEdge_exec_withPins {i : Instr} {s : State} {c : Inputs}
    (hc : c.lineErr = s.pins.lineErr ∨ s.cfg = false ∨ ∀ p, i ≠ .step p) :
    finishEdge (exec i (s.withPins c)) = finishEdge (exec i s) := by
  cases i with
  | config g => exact finishEdge_execConfig_withPins g s c
  | step p =>
    exact finishEdge_execStep_withPins p (hc.imp_right fun h => h.resolve_right fun hno => hno p rfl)
  | release => exact finishEdge_execRelease_withPins s c

/-! ### Each branch of an edge at other pins (rule R92, last paragraph) -/

theorem step_withPins_reset {s : State} {c : Inputs} (hr : s.pins.rst = true) (hc : c.rst = true) :
    step (s.withPins c) = step s :=
  (step_reset (s := s.withPins c) hc).trans (step_reset hr).symm

theorem step_withPins_pace {s : State} {c : Inputs} (hr : s.pins.rst = false) (hp : s.pace ≠ 0#30)
    (hrc : c.rst = false) (hc : c.cancel = s.pins.cancel) : step (s.withPins c) = step s := by
  rw [step_pace hr hp, step_pace (s := s.withPins c) hrc hp, paceTick_withPins hc]
  rfl

theorem step_withPins_idle {s : State} {c : Inputs} (hr : s.pins.rst = false) (hp : s.pace = 0#30)
    (hv : s.pins.cmdValid = false) (hrc : c.rst = false) (hvc : c.cmdValid = false) : step (s.withPins c) = step s :=
  (step_idle (s := s.withPins c) hrc hp hvc).trans (step_idle hr hp hv).symm

theorem step_withPins_command {s : State} {c : Inputs} (h : s.AcceptsWord) (hrc : c.rst = false)
    (hvc : c.cmdValid = true) (hcmd : c.cmd = s.pins.cmd)
    (hc : c.lineErr = s.pins.lineErr ∨ s.cfg = false ∨ ∀ p, decode s.pins.cmd ≠ .ok (.step p)) :
    step (s.withPins c) = step s := by
  have hacc : (s.withPins c).AcceptsWord := ⟨hrc, h.2.1, hvc⟩
  cases hd : decode s.pins.cmd with
  | error why => exact (step_illegal hacc ((congrArg decode hcmd).trans hd)).trans (step_illegal h hd).symm
  | ok i =>
    rw [step_command ⟨h, hd⟩, step_command ⟨hacc, (congrArg decode hcmd).trans hd⟩]
    exact finishEdge_exec_withPins (hc.imp_right (.imp_right fun hno p hi => hno p (hi ▸ hd)))

/-- Settles O9: setting the pins to `b` after `a` is setting them to `b`, so the lemma of the branch that the edge takes at
`a` compares the two. -/
theorem pinsReadOnlyWhereNamed : Obligations.PinsReadOnlyWhereNamed := by
  intro s a b hrst h
  change step (s.withPins a) = step ((s.withPins a).withPins b)
  symm
  cases ha : a.rst with
  | true => exact step_withPins_reset (s := s.withPins a) ha (hrst.symm.trans ha)
  | false =>
    have hb : b.rst = false := hrst.symm.trans ha
    rcases h with h | ⟨hp, hcancel⟩ | ⟨hp, hva, hvb⟩ | ⟨hp, hv, hcmd, hline⟩
    · cases ha.symm.trans h
    · exact step_withPins_pace (s := s.withPins a) ha hp hb hcancel.symm
    · exact step_withPins_idle (s := s.withPins a) ha hp hva hb hvb
    · cases hva : a.cmdValid with
      | false => exact step_withPins_idle (s := s.withPins a) ha hp hva hb (hv.symm.trans hva)
      | true =>
        exact step_withPins_command (s := s.withPins a) ⟨ha, hp, hva⟩ hb (hv.symm.trans hva) hcmd.symm
          (hline.imp_left Eq.symm)

end Sys2Proof.Machine
end

section
/-! Proofs of the family on `next_phase`: its period, the direction that is fixed while configured, and the k-th call law. -/

namespace Sys2Proof.Machine

/-! ### The sequencer's registers -/

/-- The elements `CFG`, `DIR` and `CUR`: whether a Stepper exists, and where in which cycle it stands. -/
def State.sequencer (s : State) : Bool × Direction × BitVec 2 := (s.cfg, s.dir, s.cur)

theorem State.sequencer_eq_iff {s : State} {c : Bool} {d : Direction} {i : BitVec 2} :
    s.sequencer = (c, d, i) ↔ s.cfg = c ∧ s.dir = d ∧ s.cur = i := by
  simp [State.sequencer]

@[simp] theorem State.afterLines_cfg (s : State) : s.afterLines.cfg = s.cfg := by simp [State.afterLines]
@[simp] theorem State.afterLines_dir (s : State) : s.afterLines.dir = s.dir := by simp [State.afterLines]
@[simp] theorem State.afterLines_cur (s : State) : s.afterLines.cur = s.cur + 1#2 := by simp [State.afterLines]

theorem paceTick_sequencer (s : State) : (paceTick s).sequencer = s.sequencer := by
  rcases paceTick_cases s with ⟨-, e⟩ | ⟨-, -, e⟩ | ⟨-, -, e⟩ <;> rw [e] <;> rfl

/-- A `STEP` of a configured Stepper advances the cursor whether or not a line fails (rule R121). -/
theorem execStep_sequencer {s t : State} {p : Ticks} (hs : s.cfg = true) (h : execStep p s = .next t) :
    t.sequencer = (true, s.dir, s.cur + 1#2) := by
  rw [State.sequencer_eq_iff]
  by_cases he : s.pins.lineErr = 0b0000#4
  · rw [execStep_emits p hs he] at h
    obtain rfl := Host.Outcome.next.inj h
    split_ifs <;> simp [hs]
  · rw [execStep_lineFault p hs he] at h
    obtain rfl := Host.Outcome.next.inj h
    simp [hs]

/-- Everything a command can do to the sequencer's registers. -/
theorem exec_sequencer_cases {i : Instr} {s t : State} (h : exec i s = .next t) :
    (∃ p, i = .step p ∧ s.cfg = true ∧ t.sequencer = (true, s.dir, s.cur + 1#2)) ∨
    (∃ g, i = .config g ∧ s.cfg = false ∧ g.getLsbD 1 = false ∧
      t.sequencer = (true, Direction.ofBit (g.getLsbD 0), 0#2)) ∨
    (i = .release ∧ s.cfg = true ∧ t.sequencer = (false, s.dir, s.cur)) ∨
    ((∀ p, i = .step p → s.cfg = false) ∧ t.sequencer = s.sequencer) := by
  cases i with
  | config g =>
    rcases execConfig_cases g s with ⟨-, e⟩ | ⟨-, -, e⟩ | ⟨hs, hg, e⟩ <;>
      obtain rfl := Host.Outcome.next.inj (e.symm.trans h)
    · exact .inr (.inr (.inr ⟨nofun, rfl⟩))
    · exact .inr (.inr (.inr ⟨nofun, rfl⟩))
    · exact .inr (.inl ⟨g, rfl, hs, hg, rfl⟩)
  | step p =>
    cases hs : s.cfg with
    | true => exact .inl ⟨p, rfl, rfl, execStep_sequencer hs h⟩
    | false =>
      obtain rfl := Host.Outcome.next.inj ((execStep_unconfigured p hs).symm.trans h)
      exact .inr (.inr (.inr ⟨fun _ _ => rfl, rfl⟩))
  | release =>
    rcases execRelease_cases s with ⟨-, e⟩ | ⟨hs, e⟩ <;> obtain rfl := Host.Outcome.next.inj (e.symm.trans h)
    · exact .inr (.inr (.inr ⟨nofun, rfl⟩))
    · exact .inr (.inr (.inl ⟨rfl, hs, rfl⟩))

/-- `takesStep` fails where every `STEP` the edge could accept finds no Stepper; in particular where it accepts none. -/
theorem State.takesStep_eq_false {s : State} (h : ∀ p, s.Accepts (.step p) → s.cfg = false) : s.takesStep = false := by
  rw [← Bool.not_eq_true, s.takesStep_iff]
  rintro ⟨hs, p, hp⟩
  cases hs.symm.trans (h p hp)

/-- Everything an edge without reset can do to the sequencer's registers. -/
theorem step_sequencer_cases {s t : State} (hr : s.pins.rst = false) (h : step s = .next t) :
    (s.takesStep = true ∧ s.cfg = true ∧ t.sequencer = (true, s.dir, s.cur + 1#2)) ∨
    (∃ g, s.Accepts (.config g) ∧ s.cfg = false ∧ g.getLsbD 1 = false ∧
      t.sequencer = (true, Direction.ofBit (g.getLsbD 0), 0#2)) ∨
    (s.Accepts .release ∧ s.cfg = true ∧ t.sequencer = (false, s.dir, s.cur)) ∨
    (s.takesStep = false ∧ t.sequencer = s.sequencer) := by
  rcases step_cases s with ⟨hr', -⟩ | ⟨-, hp, e⟩ | ⟨i, hw, hd, e⟩ | ⟨why, hw, hd, e⟩ | ⟨-, -, hv, e⟩
  · cases hr.symm.trans hr'
  · obtain rfl := Host.Outcome.next.inj (e.symm.trans h)
    exact .inr (.inr (.inr ⟨State.takesStep_eq_false fun _ ha => absurd ha.1.2.1 hp, paceTick_sequencer s⟩))
  · obtain ⟨u, hu⟩ := exec_next i s
    rw [hu, finishEdge_next] at e
    obtain rfl := Host.Outcome.next.inj (e.symm.trans h)
    rcases exec_sequencer_cases hu with ⟨p, rfl, hs, hseq⟩ | ⟨g, rfl, hs, hg, hseq⟩ | ⟨rfl, hs, hseq⟩ | ⟨hno, hseq⟩
    · exact .inl ⟨s.takesStep_iff.2 ⟨hs, p, hw, hd⟩, hs, hseq⟩
    · exact .inr (.inl ⟨g, ⟨hw, hd⟩, hs, hg, hseq⟩)
    · exact .inr (.inr (.inl ⟨⟨hw, hd⟩, hs, hseq⟩))
    · refine .inr (.inr (.inr ⟨State.takesStep_eq_false fun p ha => hno p ?_, hseq⟩))
      exact Except.ok.inj (hd.symm.trans ha.2)
  · obtain rfl := Host.Outcome.next.inj (e.symm.trans h)
    refine .inr (.inr (.inr ⟨State.takesStep_eq_false fun _ ha => ?_, rfl⟩))
    cases hd.symm.trans ha.2
  · obtain rfl := Host.Outcome.next.inj (e.symm.trans h)
    refine .inr (.inr (.inr ⟨State.takesStep_eq_false fun _ ha => ?_, rfl⟩))
    cases hv.symm.trans ha.1.2.2

/-- An edge without reset keeps the direction unless it accepts a `CONFIG` that constructs a Stepper. -/
theorem step_dir_eq_or_constructs {s t : State} (hr : s.pins.rst = false) (h : step s = .next t) :
    t.dir = s.dir ∨
    (s.cfg = false ∧ t.cfg = true ∧ t.cur = 0#2 ∧ ∃ g, s.Accepts (.config g) ∧ g.getLsbD 1 = false) := by
  rcases step_sequencer_cases hr h with ⟨-, -, hseq⟩ | ⟨g, ha, hs, hg, hseq⟩ | ⟨-, -, hseq⟩ | ⟨-, hseq⟩ <;>
    obtain ⟨hcfg, hdir, hcur⟩ := State.sequencer_eq_iff.1 hseq
  · exact .inl hdir
  · exact .inr ⟨hs, hcfg, hcur, g, ha, hg⟩
  · exact .inl hdir
  · exact .inl hdir

/-! ### A configured lifetime -/

/-- One edge of a configured lifetime keeps the direction, and moves the cursor on if it accepts a `STEP`. -/
theorem step_sequencer_of_configured {s t : State} (hs : s.cfg = true) (hr : s.pins.rst = false)
    (hrel : ¬ s.Accepts .release) (h : step s = .next t) :
    t.sequencer = (true, s.dir, s.cur + BitVec.ofNat 2 (if s.takesStep then 1 else 0)) := by
  rcases step_sequencer_cases hr h with ⟨htake, -, hseq⟩ | ⟨g, -, hs', -⟩ | ⟨ha, -⟩ | ⟨htake, hseq⟩
  · simp [hseq, htake]
  · cases hs.symm.trans hs'
  · exact absurd ha hrel
  · rw [hseq]
    simp [htake, State.sequencer, hs]

/-- Along a configured lifetime the direction stays and the cursor counts the accepted `STEP`s modulo 4. -/
theorem run_sequencer_of_withinLifetime {s : State} (n : Nat) (hs : s.cfg = true) (hlife : WithinLifetime n s) :
    ∃ t, run n s = .next t ∧ t.sequencer = (true, s.dir, s.cur + BitVec.ofNat 2 (stepsTaken n s)) := by
  induction n generalizing s with
  | zero => exact ⟨s, rfl, by simp [State.sequencer, hs, stepsTaken]⟩
  | succ n ih =>
    obtain ⟨u, hu, -⟩ := stepNeverStops s
    obtain ⟨hr, hrel, hlife⟩ := (withinLifetime_succ hu n).1 hlife
    obtain ⟨hcfg, hdir, hcur⟩ := State.sequencer_eq_iff.1 (step_sequencer_of_configured hs hr hrel hu)
    obtain ⟨t, ht, hseq⟩ := ih hcfg hlife
    refine ⟨t, (run_succ hu n).trans ht, ?_⟩
    rw [hseq, hdir, hcur, stepsTaken_succ hu, BitVec.ofNat_add, BitVec.add_assoc]

/-! ### The vector a `STEP` emits -/

theorem State.afterLines_line {s : State} (he : s.pins.lineErr = 0b0000#4) : s.afterLines.line = s.nextVector := by
  rw [State.afterLines, (lowestFailingLine_eq_four _).2 he, State.writeLines_all]
  rfl

/-- A fault-free `STEP` puts the vector at the old cursor on the lines (rule R122). -/
theorem step_line_of_emits {s t : State} {p : Ticks} (h : s.Emits p) (ht : step s = .next t) :
    t.line = s.nextVector := by
  obtain ⟨ha, hs, he⟩ := h
  have hstep : step s = finishEdge (execStep p s) := step_command ha
  rw [hstep, execStep_emits p hs he, finishEdge_next] at ht
  obtain rfl := Host.Outcome.next.inj ht
  split_ifs <;> simp [State.afterLines_line he]

/-- The edge that accepts the next call of `step()`: the cursor moves on, and the lines take the vector at the old cursor
unless one of them fails. -/
theorem step_of_takesStep {s : State} (h : s.takesStep = true) :
    ∃ t, step s = .next t ∧ t.cur = s.cur + 1#2 ∧ (s.pins.lineErr = 0b0000#4 → t.line = s.nextVector) := by
  obtain ⟨hs, p, ha⟩ := s.takesStep_iff.1 h
  obtain ⟨u, hu⟩ := exec_next (.step p) s
  have hstep : step s = .next u.nextEdge := by rw [step_command ha, hu, finishEdge_next]
  obtain ⟨-, -, hcur⟩ := State.sequencer_eq_iff.1 (execStep_sequencer hs hu)
  exact ⟨u.nextEdge, hstep, hcur, fun he => step_line_of_emits ⟨ha, hs, he⟩ hstep⟩

/-! ### The obligations -/

/-- Settles O33: `DIR` changes only at a successful `CONFIG`, which needs `CFG = 0`. -/
theorem directionFixed : Obligations.DirectionFixed := by
  refine ⟨State.nextPhase_dir, fun s t hr hs h => ?configured, fun s t hr h => ?changed⟩
  case configured =>
    refine (step_dir_eq_or_constructs hr h).resolve_right ?_
    rintro ⟨hs', -⟩
    cases hs.symm.trans hs'
  case changed => exact (step_dir_eq_or_constructs hr h).resolve_left

/-- Settles O40: the cursor is 0 after `CONFIG` and counts the accepted `STEP`s of the lifetime, by induction on its edges. -/
theorem kthCallLaw : Obligations.KthCallLaw := by
  intro s0 s g n ha hs0 hg h0 hlife
  have hfresh : s.sequencer = (true, Direction.ofBit (g.getLsbD 0), 0#2) := by
    rw [step_command ha, exec, execConfig_constructs hs0 hg, finishEdge_next] at h0
    obtain rfl := Host.Outcome.next.inj h0
    rfl
  obtain ⟨hcfg, hdir, hcur⟩ := State.sequencer_eq_iff.1 hfresh
  obtain ⟨t, ht, hseq⟩ := run_sequencer_of_withinLifetime n hcfg hlife
  obtain ⟨htcfg, htdir, htcur⟩ := State.sequencer_eq_iff.1 hseq
  have hcount : t.cur = BitVec.ofNat 2 (stepsTaken n s % 4) := by
    rw [htcur, hcur, BitVec.zero_add]
    exact BitVec.eq_of_toNat_eq (by simp)
  refine ⟨t, ht, htcfg, htdir.trans hdir, by simp [hcount], by rw [State.nextPhase_vector, hcount], fun htake => ?_⟩
  obtain ⟨u, hu, hucur, huline⟩ := step_of_takesStep htake
  refine ⟨u, hu, by simp [hucur, hcount], fun he => ?_⟩
  rw [huline he, State.nextVector, hcount]

/-- Settles O17: four is 0 in the two bits of the cursor, and `next_phase` writes nothing else. -/
theorem fourPhasesReturn : Obligations.FourPhasesReturn := by
  intro s
  have hcur : s.cur + 1#2 + 1#2 + 1#2 + 1#2 = s.cur := by simp [BitVec.add_assoc]
  simp [State.block, hcur]

end Sys2Proof.Machine
end

section
/-! Proofs of the family on `STEP` and its pause: the writes of a fault-free `STEP`, one tick of the pause, and the run from
the acceptance edge to the response. -/

namespace Sys2Proof.Machine

/-! ### A fault-free `STEP` at its acceptance edge (rule R122) -/

/-- The spec's state after a fault-free `STEP` accepted in `s`, with `p` ticks of its pause left: the response `OK` is there
iff none is left (rules R121, R124). -/
def State.emittedBlock (s : State) (p : Ticks) : Block :=
  { s.block with
    cur := s.cur + 1#2, line := s.nextVector, pace := p,
    rspv := decide (p = 0#30), rspc := 0b000#3, rspi := 0b00#2 }

/-- The line writes of a fault-free `STEP` accepted in `s`, in line order. -/
def State.emittedEvents (s : State) : List LineEvent :=
  [⟨0, s.nextVector.getLsbD 0⟩, ⟨1, s.nextVector.getLsbD 1⟩, ⟨2, s.nextVector.getLsbD 2⟩, ⟨3, s.nextVector.getLsbD 3⟩]

theorem State.afterLines_of_noFailingLine {s : State} (he : s.pins.lineErr = 0b0000#4) :
    s.afterLines = { s.beginEdge with cur := s.cur + 1#2, line := s.nextVector, events := s.emittedEvents } := by
  rw [State.afterLines, (lowestFailingLine_eq_four _).2 he, State.writeLines_all]
  rfl

theorem execStep_emittedBlock {s : State} (p : Ticks) (hs : s.cfg = true) (he : s.pins.lineErr = 0b0000#4) :
    ∃ t, execStep p s = .next t ∧ t.block = s.emittedBlock p ∧ t.events = s.emittedEvents := by
  refine ⟨_, execStep_emits p hs he, ?_⟩
  rw [State.afterLines_of_noFailingLine he]
  by_cases hp : p = 0#30 <;> simp [hp, State.block, State.emittedBlock, ResponseCode.bits]

theorem step_of_emits {s : State} {n : Ticks} (h : s.Emits n) :
    ∃ t, step s = .next t ∧ t.block = s.emittedBlock n ∧ t.events = s.emittedEvents := by
  obtain ⟨ha, hs, he⟩ := h
  obtain ⟨t, ht, hres⟩ := execStep_emittedBlock n hs he
  exact ⟨t.nextEdge, by rw [step_command ha, exec, ht, finishEdge_next], hres⟩

/-! ### One tick of the pause (rule R123) -/

theorem paceTick_block (s : State) : (paceTick s).block =
    if s.pins.cancel = true then { s.block with pace := 0#30, rspv := true, rspc := 0b100#3, rspi := 0b00#2 }
    else if s.pace = 1#30 then { s.block with pace := 0#30, rspv := true, rspc := 0b000#3, rspi := 0b00#2 }
    else { s.block with pace := s.pace - 1#30, rspv := false, rspc := 0b000#3, rspi := 0b00#2 } := by
  rcases paceTick_cases s with ⟨hc, e⟩ | ⟨hc, hp, e⟩ | ⟨hc, hp, e⟩
  · rw [e, if_pos hc]
    rfl
  · rw [e, if_neg (by simp [hc]), if_pos hp]
    rfl
  · rw [e, if_neg (by simp [hc]), if_neg hp]
    rfl

@[simp] theorem paceTick_events (s : State) : (paceTick s).events = [] := by
  rcases paceTick_cases s with ⟨-, e⟩ | ⟨-, -, e⟩ | ⟨-, -, e⟩ <;> rw [e] <;> rfl

/-- Without `cancel` a tick counts down by one, and responds `OK` iff it is the last. -/
theorem paceTick_block_uncancelled {s : State} (hc : s.pins.cancel = false) : (paceTick s).block =
    { s.block with pace := s.pace - 1#30, rspv := decide (s.pace - 1#30 = 0#30), rspc := 0b000#3, rspi := 0b00#2 } := by
  rw [paceTick_block, if_neg (by simp [hc])]
  by_cases hp : s.pace = 1#30
  · simp [hp]
  · simp [hp, show s.pace - 1#30 ≠ 0#30 from sub_ne_zero.2 hp]

/-! ### The run from the acceptance to the response (rule R124) -/

/-- A run of `k` edges has sampled the first `k` entries of the schedule. -/
theorem run_inputAt {s t : State} {k : Nat} (h : run k s = .next t) (j : Nat) : t.inputAt j = s.inputAt (k + j) := by
  induction k generalizing s with
  | zero =>
    obtain rfl := Host.Outcome.next.inj h
    rw [Nat.zero_add]
  | succ k ih =>
    obtain ⟨u, hu, hscript, hedge⟩ := stepNeverStops s
    rw [run_succ hu] at h
    rw [ih h, State.inputAt_succ hscript hedge, Nat.add_right_comm]

theorem run_pins {s t : State} {k : Nat} (h : run k s = .next t) : t.pins = s.inputAt k := by
  rw [← State.inputAt_zero, run_inputAt h, Nat.add_zero]

/-- A run made longer by the edge after it. -/
theorem run_snoc {s t u : State} {k : Nat} (h : run k s = .next t) (hstep : step t = .next u) :
    run (k + 1) s = .next u := by
  rw [run_add k 1 h, run_one hstep]

theorem State.Undisturbed.mono {s : State} {k n : Nat} (h : s.Undisturbed n) (hk : k ≤ n) : s.Undisturbed k :=
  fun j h1 hj => h j h1 (hj.trans hk)

/-- After `k` undisturbed edges of the pause only `PACE` has moved, down by `k`, with the response at its end; and none of
these edges writes a line. -/
theorem run_of_emits {s : State} {n : Ticks} (h : s.Emits n) {k : Nat} (hk : k ≤ n.toNat) (hu : s.Undisturbed k) :
    ∃ t, run (k + 1) s = .next t ∧ t.block = s.emittedBlock t.pace ∧ t.pace.toNat = n.toNat - k ∧
      (1 ≤ k → t.events = []) := by
  induction k with
  | zero =>
    obtain ⟨t, ht, hb, -⟩ := step_of_emits h
    obtain rfl : t.pace = n := congrArg Block.pace hb
    exact ⟨t, run_one ht, hb, rfl, nofun⟩
  | succ k ih =>
    obtain ⟨t, ht, hb, hpace, -⟩ := ih (by omega) (hu.mono k.le_succ)
    obtain ⟨hr, hc⟩ : t.pins.rst = false ∧ t.pins.cancel = false := by
      rw [run_pins ht]
      exact hu (k + 1) k.succ_pos le_rfl
    have hbusy : t.pace ≠ 0#30 := by
      intro h0
      rw [h0, BitVec.toNat_zero] at hpace
      omega
    have htick := paceTick_block_uncancelled hc
    have hpace' : (paceTick t).pace = t.pace - 1#30 := congrArg Block.pace htick
    refine ⟨(paceTick t).nextEdge, run_snoc ht (step_pace hr hbusy), ?_, ?_, fun _ => paceTick_events t⟩
    · rw [State.nextEdge_pace, hpace']
      exact htick.trans (by rw [hb]; rfl)
    · rw [State.nextEdge_pace, hpace']
      bv_omega

/-! ### The obligations -/

/-- Settles O22, by the branch of `STEP` without a failing line. -/
theorem stepEmits : Obligations.StepEmits := fun _ p hs he => execStep_emittedBlock p hs he

/-- Settles O25; the name `paceTick` is the model's. -/
theorem paceTickCases : Obligations.PaceTick := fun s hr hp => ⟨_, step_pace hr hp, paceTick_block s⟩

/-- Settles O26: every element the statement reads is a function of `PACE` along the pause. -/
theorem pauseLength : Obligations.PauseLength := by
  intro s n h hu k hk
  obtain ⟨t, ht, hb, hpace, -⟩ := run_of_emits h hk (hu.mono hk)
  have hdone : t.pace = 0#30 ↔ k = n.toNat := by
    rw [← BitVec.toNat_inj, hpace, BitVec.toNat_zero]
    omega
  have hrspv : t.rspv = decide (t.pace = 0#30) := congrArg Block.rspv hb
  refine ⟨t, ht, hpace, ?busy, ?ready, ?response, congrArg Block.rspc hb, congrArg Block.rspi hb, ?accepts⟩
  case busy =>
    rw [State.outputs_busy_iff, ne_eq, hdone]
    omega
  case ready => rw [State.outputs_cmdReady_iff, hdone]
  case response => rw [hrspv, decide_eq_true_iff, hdone]
  case accepts =>
    rw [State.AcceptsWord, run_pins ht, hdone]
    exact and_left_comm

/-- Settles O27: the run of the pause at its end, with the events of each of its edges. -/
theorem stepAsOneTransition : Obligations.StepAsOneTransition := by
  intro s n h hu
  refine ⟨?done, ?writes, fun k h1 hk => ?silent⟩
  case done =>
    obtain ⟨t, ht, hb, hpace, -⟩ := run_of_emits h le_rfl hu
    have hzero : t.pace = 0#30 := BitVec.eq_of_toNat_eq (hpace.trans (Nat.sub_self _))
    rw [hzero] at hb
    exact ⟨t, ht, hb⟩
  case writes =>
    obtain ⟨t, ht, -, hev⟩ := step_of_emits h
    exact ⟨t, run_one ht, hev⟩
  case silent =>
    obtain ⟨t, ht, -, -, hev⟩ := run_of_emits h hk (hu.mono hk)
    exact ⟨t, ht, hev h1⟩

end Sys2Proof.Machine
end

section
/-! Proofs of the family on construction: `RELEASE`, and the refinement of the lifecycle's transition table. -/

namespace Sys2Proof.Machine

/-! ### The lifecycle state (rule R143) -/

theorem State.lifecycle_eq_unconfigured_iff {s : State} :
    s.lifecycle = some .unconfigured ↔ s.cfg = false ∧ s.pace = 0#30 := by
  cases h : s.cfg <;> by_cases hp : s.pace = 0#30 <;> simp [State.lifecycle, h, hp]

theorem State.lifecycle_eq_idle_iff {s : State} : s.lifecycle = some .idle ↔ s.cfg = true ∧ s.pace = 0#30 := by
  cases h : s.cfg <;> by_cases hp : s.pace = 0#30 <;> simp [State.lifecycle, h, hp]

theorem State.lifecycle_eq_pacing_iff {s : State} : s.lifecycle = some .pacing ↔ s.cfg = true ∧ s.pace ≠ 0#30 := by
  cases h : s.cfg <;> by_cases hp : s.pace = 0#30 <;> simp [State.lifecycle, h, hp]

/-- Only `CFG = 0, PACE != 0` is outside the lifecycle. -/
theorem State.exists_lifecycle_iff {s : State} : (∃ l, s.lifecycle = some l) ↔ (s.pace ≠ 0#30 → s.cfg = true) := by
  cases h : s.cfg <;> by_cases hp : s.pace = 0#30 <;> simp [State.lifecycle, h, hp]

/-! ### The event of the next edge, by the branch the edge takes (rule R92) -/

theorem State.lifecycleEvent_reset {s : State} (hr : s.pins.rst = true) : s.lifecycleEvent = .reset := by
  simp [State.lifecycleEvent, hr]

theorem State.lifecycleEvent_pace {s : State} (hr : s.pins.rst = false) (hp : s.pace ≠ 0#30) :
    s.lifecycleEvent = if s.pins.cancel then .cancel else .tick (s.pace == 1#30) := by
  simp [State.lifecycleEvent, hr, hp]

theorem State.lifecycleEvent_illegal {s : State} {why : IllegalWord} (h : s.AcceptsWord)
    (hd : decode s.pins.cmd = .error why) : s.lifecycleEvent = .illegalWord := by
  obtain ⟨hr, hp, hv⟩ := h
  simp [State.lifecycleEvent, hr, hp, hv, hd]

theorem State.lifecycleEvent_idle {s : State} (hr : s.pins.rst = false) (hp : s.pace = 0#30)
    (hv : s.pins.cmdValid = false) : s.lifecycleEvent = .noCommand := by
  simp [State.lifecycleEvent, hr, hp, hv]

/-- The event of rule R143's table that an accepted command is, with `line_err` as given. -/
def commandEvent (lineErr : BitVec 4) : Instr → LifecycleEvent
  | .config g => .config g
  | .step p => .step (p == 0#30) (lineErr != 0b0000#4)
  | .release => .release

theorem State.lifecycleEvent_command {s : State} {i : Instr} (h : s.Accepts i) :
    s.lifecycleEvent = commandEvent s.pins.lineErr i := by
  obtain ⟨⟨hr, hp, hv⟩, hd⟩ := h
  cases i <;> simp [State.lifecycleEvent, commandEvent, hr, hp, hv, hd]

/-! ### The rows of the table -/

theorem lifecycleRow_reset (l : Lifecycle) : lifecycleRow l .reset = some (.unconfigured, none) := by
  cases l <;> rfl

theorem lifecycleRow_config_configured (g : BitVec 2) :
    lifecycleRow .idle (.config g) = some (.idle, some .stateErr) := by
  revert g; decide

theorem lifecycleRow_config_refused {g : BitVec 2} (h : g.getLsbD 1 = true) :
    lifecycleRow .unconfigured (.config g) = some (.unconfigured, some .configErr) := by
  revert g; decide

theorem lifecycleRow_config_constructs {g : BitVec 2} (h : g.getLsbD 1 = false) :
    lifecycleRow .unconfigured (.config g) = some (.idle, some .ok) := by
  revert g; decide

/-- The table has a row for event `e` in the lifecycle state of `s`, and `t` has the state and the response of that row. -/
def State.MovesBy (s : State) (e : LifecycleEvent) (t : State) : Prop :=
  ∃ l l' r, s.lifecycle = some l ∧ lifecycleRow l e = some (l', r) ∧ t.lifecycle = some l' ∧
    t.responseBits = r.map ResponseCode.bits

/-! ### Each branch of an edge takes its row -/

theorem resetEdge_movesBy {s : State} {l : Lifecycle} (hl : s.lifecycle = some l) : s.MovesBy .reset (resetEdge s) :=
  ⟨l, .unconfigured, none, hl, lifecycleRow_reset l, rfl, rfl⟩

theorem paceTick_movesBy {s : State} (hs : s.cfg = true) (hp : s.pace ≠ 0#30) :
    s.MovesBy (if s.pins.cancel then .cancel else .tick (s.pace == 1#30)) (paceTick s) := by
  have hl : s.lifecycle = some .pacing := State.lifecycle_eq_pacing_iff.2 ⟨hs, hp⟩
  rcases paceTick_cases s with ⟨hc, e⟩ | ⟨hc, h1, e⟩ | ⟨hc, h1, e⟩
  · rw [e, hc]
    exact ⟨.pacing, .idle, some .cancelled, hl, rfl, State.lifecycle_eq_idle_iff.2 ⟨hs, rfl⟩, rfl⟩
  · rw [e, hc, h1]
    exact ⟨.pacing, .idle, some .ok, hl, rfl, State.lifecycle_eq_idle_iff.2 ⟨hs, rfl⟩, rfl⟩
  · rw [e, hc, beq_false_of_ne h1]
    have hleft : s.pace - 1#30 ≠ 0#30 := sub_ne_zero.2 h1
    exact ⟨.pacing, .pacing, none, hl, rfl, State.lifecycle_eq_pacing_iff.2 ⟨hs, hleft⟩, rfl⟩

/-- An edge of a block that is not busy, with an event that both lifecycle states it can be in answer in the same way and
stay. -/
theorem State.movesBy_of_stays {s t : State} {e : LifecycleEvent} {r : Option ResponseCode} (hp : s.pace = 0#30)
    (hu : lifecycleRow .unconfigured e = some (.unconfigured, r)) (hi : lifecycleRow .idle e = some (.idle, r))
    (ht : t.lifecycle = s.lifecycle) (hr : t.responseBits = r.map ResponseCode.bits) : s.MovesBy e t := by
  cases hs : s.cfg with
  | false =>
    have hl : s.lifecycle = some .unconfigured := State.lifecycle_eq_unconfigured_iff.2 ⟨hs, hp⟩
    exact ⟨.unconfigured, .unconfigured, r, hl, hu, ht.trans hl, hr⟩
  | true =>
    have hl : s.lifecycle = some .idle := State.lifecycle_eq_idle_iff.2 ⟨hs, hp⟩
    exact ⟨.idle, .idle, r, hl, hi, ht.trans hl, hr⟩

theorem illegalCommand_movesBy {s : State} (why : IllegalWord) (hp : s.pace = 0#30) :
    s.MovesBy .illegalWord (illegalCommand why s) :=
  State.movesBy_of_stays (r := some .illegalCmd) hp rfl rfl rfl rfl

theorem idleEdge_movesBy {s : State} (hp : s.pace = 0#30) : s.MovesBy .noCommand (idleEdge s) :=
  State.movesBy_of_stays (r := none) hp rfl rfl rfl rfl

theorem execConfig_movesBy {s : State} (g : BitVec 2) (hp : s.pace = 0#30) :
    ∃ t, execConfig g s = .next t ∧ s.MovesBy (.config g) t := by
  rcases execConfig_cases g s with ⟨hs, e⟩ | ⟨hs, hg, e⟩ | ⟨hs, hg, e⟩
  · have hl : s.lifecycle = some .idle := State.lifecycle_eq_idle_iff.2 ⟨hs, hp⟩
    exact ⟨_, e, .idle, .idle, some .stateErr, hl, lifecycleRow_config_configured g, hl, rfl⟩
  · have hl : s.lifecycle = some .unconfigured := State.lifecycle_eq_unconfigured_iff.2 ⟨hs, hp⟩
    exact ⟨_, e, .unconfigured, .unconfigured, some .configErr, hl, lifecycleRow_config_refused hg, hl, rfl⟩
  · have hl : s.lifecycle = some .unconfigured := State.lifecycle_eq_unconfigured_iff.2 ⟨hs, hp⟩
    exact ⟨_, e, .unconfigured, .idle, some .ok, hl, lifecycleRow_config_constructs hg,
      State.lifecycle_eq_idle_iff.2 ⟨rfl, hp⟩, rfl⟩

@[simp] theorem State.afterLines_pace (s : State) : s.afterLines.pace = s.pace := by simp [State.afterLines]
@[simp] theorem State.afterLines_rspv (s : State) : s.afterLines.rspv = false := by simp [State.afterLines]

theorem execStep_movesBy {s : State} (p : Ticks) (hp : s.pace = 0#30) :
    ∃ t, execStep p s = .next t ∧ s.MovesBy (.step (p == 0#30) (s.pins.lineErr != 0b0000#4)) t := by
  rcases execStep_cases p s with ⟨hs, e⟩ | ⟨hs, he, e⟩ | ⟨hs, he, e⟩
  · have hl : s.lifecycle = some .unconfigured := State.lifecycle_eq_unconfigured_iff.2 ⟨hs, hp⟩
    exact ⟨_, e, .unconfigured, .unconfigured, some .stateErr, hl, rfl, hl, rfl⟩
  · have hl : s.lifecycle = some .idle := State.lifecycle_eq_idle_iff.2 ⟨hs, hp⟩
    rw [bne_iff_ne.2 he]
    exact ⟨_, e, .idle, .idle, some .ioErr, hl, rfl,
      State.lifecycle_eq_idle_iff.2 ⟨s.afterLines_cfg.trans hs, s.afterLines_pace.trans hp⟩, rfl⟩
  · have hl : s.lifecycle = some .idle := State.lifecycle_eq_idle_iff.2 ⟨hs, hp⟩
    rw [he]
    refine ⟨_, e, ?_⟩
    by_cases h0 : p = 0#30
    · rw [if_pos h0, h0]
      exact ⟨.idle, .idle, some .ok, hl, rfl, State.lifecycle_eq_idle_iff.2 ⟨s.afterLines_cfg.trans hs, rfl⟩, rfl⟩
    · rw [if_neg h0, beq_false_of_ne h0]
      have hsilent : { s.afterLines with pace := p }.responseBits = none := by simp [State.responseBits]
      exact ⟨.idle, .pacing, none, hl, rfl, State.lifecycle_eq_pacing_iff.2 ⟨s.afterLines_cfg.trans hs, h0⟩, hsilent⟩

theorem execRelease_movesBy {s : State} (hp : s.pace = 0#30) :
    ∃ t, execRelease s = .next t ∧ s.MovesBy .release t := by
  rcases execRelease_cases s with ⟨hs, e⟩ | ⟨hs, e⟩
  · have hl : s.lifecycle = some .unconfigured := State.lifecycle_eq_unconfigured_iff.2 ⟨hs, hp⟩
    exact ⟨_, e, .unconfigured, .unconfigured, some .stateErr, hl, rfl, hl, rfl⟩
  · have hl : s.lifecycle = some .idle := State.lifecycle_eq_idle_iff.2 ⟨hs, hp⟩
    exact ⟨_, e, .idle, .unconfigured, some .ok, hl, rfl, State.lifecycle_eq_unconfigured_iff.2 ⟨rfl, hp⟩, rfl⟩

theorem exec_movesBy {s : State} (i : Instr) (hp : s.pace = 0#30) :
    ∃ t, exec i s = .next t ∧ s.MovesBy (commandEvent s.pins.lineErr i) t := by
  cases i with
  | config g => exact execConfig_movesBy g hp
  | step p => exact execStep_movesBy p hp
  | release => exact execRelease_movesBy hp

/-- A step from a state of the lifecycle takes the row of its event. -/
theorem step_movesBy {s : State} {l : Lifecycle} (hl : s.lifecycle = some l) :
    ∃ t, step s = .next t ∧ s.MovesBy s.lifecycleEvent t := by
  rcases step_cases s with ⟨hr, e⟩ | ⟨hr, hp, e⟩ | ⟨i, hw, hd, e⟩ | ⟨why, hw, hd, e⟩ | ⟨hr, hp, hv, e⟩
  · rw [State.lifecycleEvent_reset hr]
    exact ⟨_, e, resetEdge_movesBy hl⟩
  · rw [State.lifecycleEvent_pace hr hp]
    exact ⟨_, e, paceTick_movesBy (State.exists_lifecycle_iff.1 ⟨l, hl⟩ hp) hp⟩
  · rw [State.lifecycleEvent_command ⟨hw, hd⟩]
    obtain ⟨t, ht, hmove⟩ := exec_movesBy i hw.2.1
    exact ⟨t.nextEdge, by rw [e, ht, finishEdge_next], hmove⟩
  · rw [State.lifecycleEvent_illegal hw hd]
    exact ⟨_, e, illegalCommand_movesBy why hw.2.1⟩
  · rw [State.lifecycleEvent_idle hr hp hv]
    exact ⟨_, e, idleEdge_movesBy hp⟩

/-! ### The obligations -/

/-- Settles O39: the invariant excludes the state outside the lifecycle, and each branch of an edge takes its row. -/
theorem lifecycleRefinement : Obligations.LifecycleRefinement := by
  refine ⟨fun s hinv => State.exists_lifecycle_iff.2 hinv.pacing_configured, fun s l hl => ?_⟩
  obtain ⟨t, ht, l₀, l', r, hl₀, hrow, hl', hr⟩ := step_movesBy hl
  obtain rfl : l = l₀ := Option.some.inj (hl.symm.trans hl₀)
  exact ⟨t, l', r, ht, hrow, hl', hr⟩

/-- Settles O20, by the two branches of `RELEASE`. -/
theorem releaseCommand : Obligations.ReleaseCommand := fun _ =>
  ⟨fun hs => ⟨_, execRelease_releases hs, rfl⟩, fun hs => ⟨_, execRelease_unconfigured hs, rfl⟩⟩

end Sys2Proof.Machine
end

section
/-! Proofs of the family on exceptions: a fault raised at the start of an edge, and the commands that raise `CONFIG_ERR` and
`STATE_ERR`. -/

namespace Sys2Proof.Machine

/-! ### A fault raised with nothing else done (rules R151, R158) -/

/-- The sticky flag and the response are the fault's; every other element keeps its value. -/
theorem State.beginEdge_raise_block (s : State) (x : ResponseCode) (n : BitVec 2) :
    (s.beginEdge.raise x n).block =
      { s.block with flt := s.flt ||| x.stickyFlag, rspv := true, rspc := x.bits, rspi := n } := rfl

theorem State.beginEdge_raise_events (s : State) (x : ResponseCode) (n : BitVec 2) :
    (s.beginEdge.raise x n).events = [] := rfl

/-! ### The obligations -/

/-- Settles O19: both tags have bit 1 set, so `CONFIG` takes its branch without a direction. -/
theorem configRefusesTag : Obligations.ConfigRefusesTag := by
  intro s dirtag hs htag
  have hbit : dirtag.getLsbD 1 = true := by
    rcases htag with rfl | rfl
    · decide
    · decide
  exact ⟨_, execConfig_refused hs hbit, s.beginEdge_raise_block .configErr dirtag,
    s.beginEdge_raise_events .configErr dirtag⟩

/-- Settles O21: each command checks the lifecycle first and then raises the one fault `STATE_ERR`. -/
theorem stateErrors : Obligations.StateErrors := by
  intro s i hlifecycle
  have hraise : exec i s = .next (s.beginEdge.raise .stateErr 0#2) := by
    cases i with
    | config dirtag => exact execConfig_configured dirtag hlifecycle
    | step pause => exact execStep_unconfigured pause hlifecycle
    | release => exact execRelease_unconfigured hlifecycle
  exact ⟨_, hraise, s.beginEdge_raise_block .stateErr 0#2, s.beginEdge_raise_events .stateErr 0#2⟩

end Sys2Proof.Machine
end

section
/-! Proofs of the family on reset and hazards: a `cancel` held over the edges of a pause. -/

namespace Sys2Proof.Machine

/-- A tick with `cancel` high ends the pause with `CANCELLED`, and the rest of the state stands (rules R123, R156). -/
theorem step_cancelled {s : State} (hr : s.pins.rst = false) (hp : s.pace ≠ 0#30) (hc : s.pins.cancel = true) :
    ∃ t, step s = .next t ∧
      t.block = { s.block with pace := 0#30, rspv := true, rspc := 0b100#3, rspi := 0b00#2 } := by
  obtain ⟨t, ht, hb⟩ := paceTickCases s hr hp
  rw [if_pos hc] at hb
  exact ⟨t, ht, hb⟩

/-- Settles O29: the first edge leaves the whole pause to run, and the second is a tick with `cancel` high. -/
theorem heldCancel : Obligations.HeldCancel := by
  intro s n hemits hn hr hc
  obtain ⟨t, ht, hwritten, -⟩ := step_of_emits hemits
  have hpace : t.pace = n := congrArg Block.pace hwritten
  have hpins : t.pins = s.inputAt 1 := run_pins (run_one ht)
  rw [← hpins] at hr hc
  obtain ⟨u, hu, hcancelled⟩ := step_cancelled hr (hpace.trans_ne hn) hc
  have hidle : u.pace = 0#30 := congrArg Block.pace hcancelled
  refine ⟨u, run_snoc (run_one ht) hu, ?block, u.outputs_cmdReady_iff.2 hidle⟩
  case block =>
    rw [hcancelled, hwritten]
    rfl

end Sys2Proof.Machine
end

section
/-! Proofs of the family on every step: the one inversion of an edge by the response it gives, the invariant it keeps, and the
bounded time to the response of an accepted word. -/

namespace Sys2Proof.Machine

/-! ### Responses (rule R151) -/

/-- The infos the table of rule R151 allows with a code: a refused tag, a failing line, and 0 with every other code. -/
def ResponseCode.AllowsInfo : ResponseCode → BitVec 2 → Prop
  | .configErr, n => n.getLsbD 1 = true
  | .ioErr, _ => True
  | _, n => n = 0b00#2

theorem ResponseCode.bits_injective {x y : ResponseCode} (h : x.bits = y.bits) : x = y := by
  revert h; cases x <;> cases y <;> decide

theorem ResponseCode.bits_produced (x : ResponseCode) : x.bits ≠ 0b110#3 ∧ x.bits ≠ 0b111#3 := by
  cases x <;> decide

theorem State.raise_sets_stickyFlag (s : State) (x : ResponseCode) (n : BitVec 2) :
    (s.raise x n).flt &&& x.stickyFlag = x.stickyFlag := by
  ext i
  simpa using Or.inr

/-- A response without a sticky flag is a fault that sets none. -/
theorem State.respond_eq_raise (s : State) (n : BitVec 2) {x : ResponseCode} (hx : x.stickyFlag = 0b000#3) :
    s.respond x n = s.raise x n := by
  rw [State.raise, hx, BitVec.or_zero]
  rfl

/-! ### What an edge answers -/

/-- The outcome is a response, given by an idle block, with an info that its code allows. -/
def Answers (o : Host.Outcome State Fault Refusal) : Prop :=
  ∃ (u : State) (x : ResponseCode) (n : BitVec 2), o = .next (u.raise x n) ∧ u.pace = 0#30 ∧ x.AllowsInfo n

theorem Answers.of_raise {u : State} {x : ResponseCode} {n : BitVec 2} (hp : u.pace = 0#30) (hn : x.AllowsInfo n) :
    Answers (.next (u.raise x n)) :=
  ⟨u, x, n, rfl, hp, hn⟩

theorem Answers.of_ok {u : State} (hp : u.pace = 0#30) : Answers (.next (u.respond .ok 0b00#2)) := by
  rw [u.respond_eq_raise _ rfl]
  exact .of_raise hp rfl

theorem Answers.of_cancelled {u : State} (hp : u.pace = 0#30) : Answers (.next (u.respond .cancelled 0b00#2)) := by
  rw [u.respond_eq_raise _ rfl]
  exact .of_raise hp rfl

theorem Answers.finishEdge {o : Host.Outcome State Fault Refusal} (h : Answers o) : Answers (finishEdge o) := by
  obtain ⟨u, x, n, rfl, hp, hn⟩ := h
  exact ⟨u.nextEdge, x, n, rfl, hp, hn⟩

/-- A command of an idle block answers at its acceptance edge, unless it starts a pause. -/
theorem exec_answers_or_starts (i : Instr) {s : State} (hp : s.pace = 0#30) :
    Answers (exec i s) ∨
    (∃ p, i = .step p ∧ p ≠ 0#30 ∧ s.cfg = true ∧ s.pins.lineErr = 0b0000#4 ∧
      exec i s = .next { s.afterLines with pace := p }) := by
  cases i with
  | config g =>
    left
    rcases execConfig_cases g s with ⟨-, e⟩ | ⟨-, hg, e⟩ | ⟨-, -, e⟩ <;> rw [exec, e]
    · exact .of_raise hp rfl
    · exact .of_raise hp hg
    · exact .of_ok hp
  | step p =>
    rcases execStep_cases p s with ⟨-, e⟩ | ⟨-, -, e⟩ | ⟨hs, he, e⟩ <;> rw [exec, e]
    · exact .inl (.of_raise hp rfl)
    · exact .inl (.of_raise (s.afterLines_pace.trans hp) trivial)
    · by_cases h0 : p = 0#30
      · rw [if_pos h0]
        exact .inl (.of_ok h0)
      · rw [if_neg h0]
        exact .inr ⟨p, rfl, h0, hs, he, rfl⟩
  | release =>
    left
    rcases execRelease_cases s with ⟨-, e⟩ | ⟨-, e⟩ <;> rw [exec, e]
    · exact .of_raise hp rfl
    · exact .of_ok hp

/-- Everything an edge can be, by what it puts on the response port: a response of an idle block, or silence at a reset, at an
edge without a command, at a tick that is not the last of its pause, and at a `STEP` that starts a pause. -/
theorem step_response_cases (s : State) :
    Answers (step s) ∨
    (s.pins.rst = true ∧ step s = .next (resetEdge s).nextEdge) ∨
    (s.pins.rst = false ∧ s.pace = 0#30 ∧ s.pins.cmdValid = false ∧ step s = .next s.beginEdge.nextEdge) ∨
    (s.pins.rst = false ∧ s.pace ≠ 0#30 ∧ s.pace ≠ 1#30 ∧
      step s = .next { s.beginEdge with pace := s.pace - 1#30 }.nextEdge) ∨
    (∃ p, s.Emits p ∧ p ≠ 0#30 ∧ step s = .next { s.afterLines with pace := p }.nextEdge) := by
  rcases step_cases s with ⟨hr, e⟩ | ⟨hr, hp, e⟩ | ⟨i, hw, hd, e⟩ | ⟨why, hw, hd, e⟩ | ⟨hr, hp, hv, e⟩
  · exact .inr (.inl ⟨hr, e⟩)
  · rcases paceTick_cases s with ⟨-, e'⟩ | ⟨-, -, e'⟩ | ⟨-, h1, e'⟩ <;> rw [e, e']
    · exact .inl (Answers.of_cancelled (u := { s.beginEdge with pace := 0#30 }) rfl).finishEdge
    · exact .inl (Answers.of_ok (u := { s.beginEdge with pace := 0#30 }) rfl).finishEdge
    · exact .inr (.inr (.inr (.inl ⟨hr, hp, h1, rfl⟩)))
  · rcases exec_answers_or_starts i hw.2.1 with h | ⟨p, rfl, h0, hs, he, e'⟩ <;> rw [e]
    · exact .inl h.finishEdge
    · exact .inr (.inr (.inr (.inr ⟨p, ⟨⟨hw, hd⟩, hs, he⟩, h0, by rw [e', finishEdge_next]⟩)))
  · rw [e]
    exact .inl (Answers.of_raise (u := s.beginEdge) (x := .illegalCmd) hw.2.1 rfl).finishEdge
  · exact .inr (.inr (.inl ⟨hr, hp, hv, e⟩))

/-! ### The invariant (rule R31) -/

@[simp] theorem State.afterLines_rspi (s : State) : s.afterLines.rspi = 0b00#2 := by simp [State.afterLines]

/-- A response of an idle block meets the invariant. -/
theorem State.raise_inv {u : State} {x : ResponseCode} {n : BitVec 2} (hp : u.pace = 0#30) (hn : x.AllowsInfo n) :
    (u.raise x n).Inv where
  pacing_configured h := absurd hp h
  pacing_vector h := absurd hp h
  silent_zero h := by cases h
  code_produced := x.bits_produced
  config_err_info h := by
    obtain rfl := ResponseCode.bits_injective h
    exact hn
  other_info hc hio := by
    cases x with
    | configErr => exact absurd rfl hc
    | ioErr => exact absurd rfl hio
    | ok | illegalCmd | cancelled | stateErr => exact hn
  fault_recorded y _ h := by
    obtain rfl := ResponseCode.bits_injective h
    exact u.raise_sets_stickyFlag x n
  response_idle _ := hp

/-- Without a response only a pause is to be checked: that a Stepper exists, and that the lines hold its `STEP`'s vector. -/
theorem State.inv_of_silent {t : State} (hv : t.rspv = false) (hc : t.rspc = 0b000#3) (hi : t.rspi = 0b00#2)
    (hpacing : t.pace ≠ 0#30 → t.cfg = true ∧ t.line = t.lastVector) : t.Inv where
  pacing_configured h := (hpacing h).1
  pacing_vector h := (hpacing h).2
  silent_zero _ := ⟨hc, hi⟩
  code_produced := by rw [hc]; decide
  config_err_info h := by rw [hc] at h; cases h
  other_info _ _ := hi
  fault_recorded _ h := by cases hv.symm.trans h
  response_idle h := by cases hv.symm.trans h

/-- Settles O37: nothing is on the response port and no pause runs, whatever the lines. -/
theorem resetInvariant : Obligations.ResetInvariant := State.inv_of_silent rfl rfl rfl fun h => absurd rfl h

/-- Settles O38: a response meets the invariant by its form; of the silent edges, a tick keeps the lines and the cursor of its
pause, and a `STEP` starts its pause with the lines at the vector it has moved the cursor past. -/
theorem stepKeepsInvariant : Obligations.StepKeepsInvariant := by
  intro s t hinv h
  rcases step_response_cases s with ⟨u, x, n, e, hp, hn⟩ | ⟨-, e⟩ | ⟨-, hp, -, e⟩ | ⟨-, hp, -, e⟩ | ⟨p, hemits, -, e⟩ <;>
    obtain rfl := Host.Outcome.next.inj (e.symm.trans h)
  · exact State.raise_inv hp hn
  · exact State.inv_of_silent rfl rfl rfl fun hbusy => absurd rfl hbusy
  · exact State.inv_of_silent rfl rfl rfl fun hbusy => absurd hp hbusy
  · exact State.inv_of_silent rfl rfl rfl fun _ => ⟨hinv.pacing_configured hp, hinv.pacing_vector hp⟩
  · obtain ⟨-, hs, he⟩ := hemits
    refine State.inv_of_silent s.afterLines_rspv s.afterLines_rspc s.afterLines_rspi fun _ => ⟨?cfg, ?line⟩
    case cfg => exact s.afterLines_cfg.trans hs
    case line => simp [State.lastVector, State.nextVector, State.afterLines_line he]

/-! ### The response registers (rule R27) -/

/-- `s` with other response registers. -/
def State.withResponse (s : State) (v : Bool) (c : BitVec 3) (n : BitVec 2) : State :=
  { s with rspv := v, rspc := c, rspi := n }

/-- Every edge but a reset clears the response registers before it does anything, and a reset sets them. -/
theorem step_withResponse (s : State) (v : Bool) (c : BitVec 3) (n : BitVec 2) :
    step (s.withResponse v c n) = step s := by
  rcases step_cases s with ⟨hr, e⟩ | ⟨hr, hp, e⟩ | ⟨i, hw, hd, e⟩ | ⟨why, hw, hd, e⟩ | ⟨hr, hp, hv, e⟩ <;> rw [e]
  · exact step_reset (s := s.withResponse v c n) hr
  · exact step_pace (s := s.withResponse v c n) hr hp
  · rw [step_command (s := s.withResponse v c n) ⟨hw, hd⟩]
    cases i <;> rfl
  · exact step_illegal (s := s.withResponse v c n) hw hd
  · exact step_idle (s := s.withResponse v c n) hr hp hv

/-- Settles O36: no branch reads the registers, and the silent branches leave them 0. -/
theorem responseLastsOneCycle : Obligations.ResponseLastsOneCycle := by
  refine ⟨step_withResponse, fun s t h hsilent => ?_⟩
  rcases step_response_cases s with ⟨u, x, n, e, -⟩ | ⟨-, e⟩ | ⟨-, -, -, e⟩ | ⟨-, -, -, e⟩ | ⟨p, -, -, e⟩ <;>
    obtain rfl := Host.Outcome.next.inj (e.symm.trans h)
  · cases hsilent
  · exact ⟨rfl, rfl⟩
  · exact ⟨rfl, rfl⟩
  · exact ⟨rfl, rfl⟩
  · exact ⟨s.afterLines_rspc, s.afterLines_rspi⟩

/-! ### The time to the response (rules R12, R184) -/

/-- A response is on the port iff no pause runs: so it is after the acceptance of a word and after every tick. -/
def State.AnsweredIffIdle (s : State) : Prop := (s.rspv = true ∧ s.pace = 0#30) ∨ (s.rspv = false ∧ s.pace ≠ 0#30)

theorem step_inputAt {s t : State} (h : step s = .next t) (k : Nat) : t.inputAt k = s.inputAt (k + 1) := by
  rw [run_inputAt (run_one h), Nat.add_comm]

theorem step_of_acceptsWord {s : State} (hw : s.AcceptsWord) :
    ∃ t, step s = .next t ∧ t.AnsweredIffIdle ∧ t.pace.toNat ≤ (argField s.pins.cmd).toNat := by
  rcases step_response_cases s with ⟨u, x, n, e, hp, -⟩ | ⟨hr, -⟩ | ⟨-, -, hv, -⟩ | ⟨-, hp, -⟩ | ⟨p, hemits, h0, e⟩
  · exact ⟨_, e, .inl ⟨rfl, hp⟩, by simp [hp]⟩
  · cases hw.1.symm.trans hr
  · cases hw.2.2.symm.trans hv
  · exact absurd hw.2.1 hp
  · have harg : argField s.pins.cmd = p := by rw [← encode_of_decode hemits.1.2, argField_encode_step]
    exact ⟨_, e, .inr ⟨s.afterLines_rspv, h0⟩, (congrArg BitVec.toNat harg).ge⟩

theorem step_of_pace {s : State} (hr : s.pins.rst = false) (hp : s.pace ≠ 0#30) :
    ∃ t, step s = .next t ∧ t.AnsweredIffIdle ∧ t.pace.toNat < s.pace.toNat := by
  have hpos : 0 < s.pace.toNat := by bv_omega
  rcases step_response_cases s with ⟨u, x, n, e, h0, -⟩ | ⟨hr', -⟩ | ⟨-, h0, -⟩ | ⟨-, -, h1, e⟩ | ⟨p, hemits, -⟩
  · exact ⟨_, e, .inl ⟨rfl, h0⟩, by simpa [h0] using hpos⟩
  · cases hr.symm.trans hr'
  · exact absurd h0 hp
  · refine ⟨_, e, .inr ⟨rfl, sub_ne_zero.2 h1⟩, ?_⟩
    rw [State.nextEdge_pace]
    bv_omega
  · exact absurd hemits.1.1.2.1 hp

/-- From a state whose response is there iff it is idle, a run of at most `PACE` edges without reset ends in the response, and
is busy and silent before. -/
theorem exists_run_to_response {m : Nat} {s : State} (hm : s.pace.toNat ≤ m) (hs : s.AnsweredIffIdle)
    (hr : ∀ k, k < m → (s.inputAt k).rst = false) :
    ∃ k, k ≤ m ∧ (∃ t, run k s = .next t ∧ t.rspv = true ∧ t.pace = 0#30) ∧
      (∀ j, j < k → ∃ t, run j s = .next t ∧ t.rspv = false ∧ t.pace ≠ 0#30) := by
  induction m generalizing s with
  | zero =>
    have hp : s.pace = 0#30 := BitVec.eq_of_toNat_eq (Nat.le_zero.1 hm)
    exact ⟨0, le_rfl, ⟨s, rfl, hs.resolve_right fun h => h.2 hp⟩, nofun⟩
  | succ m ih =>
    rcases hs with hdone | hbusy
    · exact ⟨0, Nat.zero_le _, ⟨s, rfl, hdone⟩, nofun⟩
    · obtain ⟨t, ht, hanswered, hlt⟩ := step_of_pace (s.inputAt_zero ▸ hr 0 m.succ_pos) hbusy.2
      obtain ⟨k, hk, ⟨u, hu, hdone⟩, hsilent⟩ := ih (by omega) hanswered fun k hk => step_inputAt ht k ▸ hr (k + 1) (by omega)
      refine ⟨k + 1, by omega, ⟨u, (run_succ ht k).trans hu, hdone⟩, fun j hj => ?_⟩
      cases j with
      | zero => exact ⟨s, rfl, hbusy⟩
      | succ j =>
        rw [run_succ ht j]
        exact hsilent j (by omega)

/-- Settles O31: the acceptance edge leaves at most the operand's value in `PACE`, and the pause runs out or is cut. -/
theorem exactlyOneResponse : Obligations.ExactlyOneResponse := by
  intro s hw hr
  obtain ⟨t, ht, hanswered, hle⟩ := step_of_acceptsWord hw
  obtain ⟨k, hk, hend, hsilent⟩ := exists_run_to_response hle hanswered fun k hk =>
    step_inputAt ht k ▸ hr (k + 1) k.succ_pos hk
  refine ⟨k, hk, ?_, fun j hj => ?_⟩
  · rwa [run_succ ht k]
  · rw [run_succ ht j]
    exact hsilent j hj

end Sys2Proof.Machine
end

section
/-! Proofs of the family on single operations and commands: the table's cycles, a line write, the lookup of the next phase, and
what an edge leaves unchanged. -/

namespace Sys2Proof.Machine

/-! ### The two cycles of the table (rule R66) -/

theorem memRead_romAddress_mem (d : Direction) (i : BitVec 2) :
    memRead (romAddress d i) ∈ [0x5#4, 0x6#4, 0x9#4, 0xA#4] := by
  revert i; cases d <;> decide

theorem memRead_romAddress_injective (d : Direction) (i k : BitVec 2)
    (h : memRead (romAddress d i) = memRead (romAddress d k)) : i = k := by
  revert i k; cases d <;> decide

theorem memRead_counterClockwise (i : BitVec 2) :
    memRead (romAddress .counterClockwise i) = memRead (romAddress .clockwise (3#2 - i)) := by
  revert i; decide

theorem memRead_slots_complementary (a : RomAddr) :
    (memRead a).getLsbD 1 = !(memRead a).getLsbD 0 ∧ (memRead a).getLsbD 3 = !(memRead a).getLsbD 2 := by
  revert a; decide

/-- One place on flips the pair of slots 0, 1 after an even index and the pair 2, 3 after an odd one. -/
theorem memRead_xor_succ (d : Direction) (i : BitVec 2) :
    memRead (romAddress d i) ^^^ memRead (romAddress d (i + 1#2)) = if i.getLsbD 0 then 0xC#4 else 0x3#4 := by
  revert i; cases d <;> decide

/-- Two places on flips both pairs, one after the other. -/
theorem memRead_xor_add_two (d : Direction) (i : BitVec 2) :
    memRead (romAddress d (i + 2#2)) ^^^ memRead (romAddress d i) = 0xF#4 := by
  revert i; cases d <;> decide

/-- Settles O14: the facts are those of the table's eight words. -/
theorem romFacts : Obligations.RomFacts :=
  ⟨memRead_romAddress_mem, memRead_romAddress_injective, memRead_counterClockwise, memRead_slots_complementary,
    memRead_xor_succ⟩

/-- Settles O44, for either order of the two directions. -/
theorem directionChangeCases : Obligations.DirectionChangeCases := by
  intro d e hde
  cases d with
  | clockwise =>
    cases e with
    | clockwise => exact absurd rfl hde
    | counterClockwise => decide
  | counterClockwise =>
    cases e with
    | clockwise => decide
    | counterClockwise => exact absurd rfl hde

/-! ### A line write, and the next phase -/

/-- Settles O15: `LineWrite` sets one bit of `LINE` and writes nothing else but its event. -/
theorem lineWriteSetsItsLine : Obligations.LineWriteSetsItsLine := by
  refine ⟨fun s i k b => ?_, fun _ _ _ => ⟨rfl, rfl⟩⟩
  simp only [State.lineWrite_line, setBit_getLsbD s.line i b k.val k.isLt, Fin.ext_iff]

/-- Settles O16: a `STEP` of a configured Stepper advances the cursor on both its paths. -/
theorem nextPhase : Obligations.NextPhase := by
  refine ⟨fun s => ⟨rfl, BitVec.toNat_add s.cur 1#2, rfl⟩, fun s p hs => ?_⟩
  obtain ⟨t, ht⟩ := exec_next (.step p) s
  obtain ⟨-, -, hcur⟩ := State.sequencer_eq_iff.1 (execStep_sequencer hs ht)
  exact ⟨t, ht, hcur⟩

/-! ### `STEP` on a failing line (rule R153) -/

theorem State.afterLines_getLsbD (s : State) {k : Nat} (hk : k < 4) : s.afterLines.line.getLsbD k =
    if k < lowestFailingLine s.pins.lineErr then s.nextVector.getLsbD k else s.line.getLsbD k :=
  State.writeLines_getLsbD _ _ _ k hk

theorem State.afterLines_events (s : State) : s.afterLines.events =
    ([(0 : Fin 4), 1, 2, 3].filter (·.val < lowestFailingLine s.pins.lineErr)).map
      (fun i => ⟨i, s.nextVector.getLsbD i.val⟩) :=
  State.writeLines_events _ _ _

@[simp] theorem State.afterLines_flt (s : State) : s.afterLines.flt = s.flt := by simp [State.afterLines]

/-- `IO_ERR` after the line writes: the cursor has advanced, and no pause is started. -/
theorem State.afterLines_raise_block (s : State) (n : BitVec 2) : (s.afterLines.raise .ioErr n).block =
    { s.block with
      cur := s.cur + 1#2, line := s.afterLines.line, flt := s.flt ||| 0b010#3,
      rspv := true, rspc := 0b010#3, rspi := n } := by
  simp [State.block, ResponseCode.bits, ResponseCode.stickyFlag]

/-- Settles O23, by the branch of `STEP` with a failing line. -/
theorem stepLineFault : Obligations.StepLineFault := by
  intro s p j hs hj hlow
  have hfail : s.pins.lineErr ≠ 0b0000#4 := by
    intro h0
    simp [h0] at hj
  have hlowest : lowestFailingLine s.pins.lineErr = j.val := lowestFailingLine_unique _ j hj hlow
  refine ⟨_, execStep_lineFault p hs hfail, ?block, fun i => ?line, ?events⟩
  case block =>
    rw [hlowest]
    exact s.afterLines_raise_block (BitVec.ofNat 2 j.val)
  case line =>
    rw [State.raise_line, s.afterLines_getLsbD i.isLt, hlowest]
    rfl
  case events =>
    rw [State.raise_events, s.afterLines_events, hlowest]
    rfl

/-! ### What a command leaves unchanged -/

theorem execConfig_frame {g : BitVec 2} {s t : State} (h : execConfig g s = .next t) :
    t.line = s.line ∧ t.pace = s.pace ∧ t.events = [] := by
  rcases execConfig_cases g s with ⟨-, e⟩ | ⟨-, -, e⟩ | ⟨-, -, e⟩ <;>
    obtain rfl := Host.Outcome.next.inj (e.symm.trans h)
  · exact ⟨rfl, rfl, rfl⟩
  · exact ⟨rfl, rfl, rfl⟩
  · exact ⟨rfl, rfl, rfl⟩

theorem execRelease_frame {s t : State} (h : execRelease s = .next t) :
    t.line = s.line ∧ t.pace = s.pace ∧ t.dir = s.dir ∧ t.cur = s.cur ∧ t.events = [] := by
  rcases execRelease_cases s with ⟨-, e⟩ | ⟨-, e⟩ <;> obtain rfl := Host.Outcome.next.inj (e.symm.trans h)
  · exact ⟨rfl, rfl, rfl, rfl, rfl⟩
  · exact ⟨rfl, rfl, rfl, rfl, rfl⟩

theorem execStep_frame {p : Ticks} {s t : State} (h : execStep p s = .next t) : t.cfg = s.cfg ∧ t.dir = s.dir := by
  cases hs : s.cfg with
  | false =>
    obtain rfl := Host.Outcome.next.inj ((execStep_unconfigured p hs).symm.trans h)
    exact ⟨hs, rfl⟩
  | true =>
    obtain ⟨hcfg, hdir, -⟩ := State.sequencer_eq_iff.1 (execStep_sequencer hs h)
    exact ⟨hcfg, hdir⟩

/-- No command clears a sticky flag (rule R28). -/
theorem exec_keeps_flt {i : Instr} {s t : State} (h : exec i s = .next t) : s.flt &&& t.flt = s.flt := by
  obtain ⟨x, u, -, hu⟩ := exec_addsOnlyFlag i s
  obtain rfl : u.withFlt (s.flt ||| x.stickyFlag) = t := Host.Outcome.next.inj ((hu s.flt).symm.trans h)
  ext k
  simp +contextual [State.withFlt]

/-- Settles O24: the schedule and the flags as for every command, the rest command by command. -/
theorem commandFrame : Obligations.CommandFrame := by
  intro i s t h
  obtain ⟨hscript, hedge⟩ := exec_schedule h
  refine ⟨hscript, hedge, exec_keeps_flt h, ?_⟩
  cases i with
  | config g => exact execConfig_frame h
  | step p => exact execStep_frame h
  | release => exact execRelease_frame h

/-! ### What an edge leaves unchanged -/

/-- Settles O6; `step_command` says it. -/
theorem stepRunsDecoded : Obligations.StepRunsDecoded := fun _ _ => step_command

theorem step_constructs {s : State} {g : BitVec 2} (ha : s.Accepts (.config g)) (hs : s.cfg = false)
    (hg : g.getLsbD 1 = false) : step s = .next
      ({ s.beginEdge with dir := Direction.ofBit (g.getLsbD 0), cur := 0#2, cfg := true }.respond .ok 0#2).nextEdge := by
  rw [step_command ha, exec, execConfig_constructs hs hg, finishEdge_next]

/-- Settles O32: the three clauses are the cases of an edge's effect on the sequencer's registers. -/
theorem cursorWriters : Obligations.CursorWriters := by
  intro s t hr h
  refine ⟨fun htake => ?steps, ?constructs, fun htake hno => ?others⟩
  case steps =>
    obtain ⟨u, hu, hcur, -⟩ := step_of_takesStep htake
    obtain rfl := Host.Outcome.next.inj (hu.symm.trans h)
    exact hcur
  case constructs =>
    rintro ⟨g, ha, hs, hg⟩
    obtain rfl := Host.Outcome.next.inj ((step_constructs ha hs hg).symm.trans h)
    rfl
  case others =>
    rcases step_sequencer_cases hr h with ⟨htake', -⟩ | ⟨g, ha, hs, hg, -⟩ | ⟨-, -, hseq⟩ | ⟨-, hseq⟩
    · cases htake.symm.trans htake'
    · rcases hno g ha with hs' | hg'
      · cases hs.symm.trans hs'
      · cases hg.symm.trans hg'
    · exact (State.sequencer_eq_iff.1 hseq).2.2
    · exact (State.sequencer_eq_iff.1 hseq).2.2

theorem paceTick_line (s : State) : (paceTick s).line = s.line := by
  rcases paceTick_cases s with ⟨-, e⟩ | ⟨-, -, e⟩ | ⟨-, -, e⟩ <;> rw [e] <;> rfl

/-- A command writes lines only if it is a `STEP` of a configured Stepper. -/
theorem exec_line_of_noStep {i : Instr} {s t : State} (hno : ∀ p, i = .step p → s.cfg = false)
    (h : exec i s = .next t) : t.line = s.line ∧ t.events = [] := by
  cases i with
  | config g =>
    obtain ⟨hline, -, hev⟩ := execConfig_frame h
    exact ⟨hline, hev⟩
  | step p =>
    obtain rfl := Host.Outcome.next.inj ((execStep_unconfigured p (hno p rfl)).symm.trans h)
    exact ⟨rfl, rfl⟩
  | release =>
    obtain ⟨hline, -, -, -, hev⟩ := execRelease_frame h
    exact ⟨hline, hev⟩

/-- Settles O34: the command is no `STEP` of a configured Stepper, and no other branch but reset writes a line. -/
theorem lineWriters : Obligations.LineWriters := by
  intro s t hr htake h
  rcases step_cases s with ⟨hr', -⟩ | ⟨-, -, e⟩ | ⟨i, hw, hd, e⟩ | ⟨why, -, -, e⟩ | ⟨-, -, -, e⟩
  · cases hr.symm.trans hr'
  · obtain rfl := Host.Outcome.next.inj (e.symm.trans h)
    exact ⟨paceTick_line s, paceTick_events s⟩
  · obtain ⟨u, hu⟩ := exec_next i s
    rw [hu, finishEdge_next] at e
    obtain rfl := Host.Outcome.next.inj (e.symm.trans h)
    refine exec_line_of_noStep (t := u) (fun p hp => ?_) hu
    by_contra hs
    have htake' : s.takesStep = true := s.takesStep_iff.2 ⟨Bool.eq_true_of_not_eq_false hs, p, hw, hp ▸ hd⟩
    cases htake.symm.trans htake'
  · obtain rfl := Host.Outcome.next.inj (e.symm.trans h)
    exact ⟨rfl, rfl⟩
  · obtain rfl := Host.Outcome.next.inj (e.symm.trans h)
    exact ⟨rfl, rfl⟩

end Sys2Proof.Machine
end

section
/-! Proofs of the family on sequences of edges: a cancelled pause, a pause of 0, one mechanical step, the `STEP` after a line
fault, and a change of direction. -/

namespace Sys2Proof.Machine

/-! ### The pause -/

/-- Settles O28: up to the edge before the cancelled one the pause runs undisturbed, so it has ticks left there. -/
theorem cancelledPause : Obligations.CancelledPause := by
  intro s n k h hk1 hkn hr hbefore hcancel
  have hundisturbed : s.Undisturbed (k - 1) := fun j h1 hj => ⟨hr j h1 (by omega), hbefore j h1 (by omega)⟩
  have hbusy (j : Nat) (hj : j < k) :
      ∃ t, run (j + 1) s = .next t ∧ t.block = s.emittedBlock t.pace ∧ t.pace ≠ 0#30 := by
    obtain ⟨t, ht, hb, hpace, -⟩ := run_of_emits h (k := j) (by omega) (hundisturbed.mono (by omega))
    refine ⟨t, ht, hb, fun h0 => ?_⟩
    rw [h0, BitVec.toNat_zero] at hpace
    omega
  refine ⟨?cancelled, fun j hj => ?silent⟩
  case cancelled =>
    obtain ⟨t, ht, hb, hp⟩ := hbusy (k - 1) (by omega)
    rw [Nat.sub_add_cancel hk1] at ht
    have hpins : t.pins = s.inputAt k := run_pins ht
    obtain ⟨u, hu, hub⟩ := step_cancelled (hpins ▸ hr k hk1 le_rfl) hp (hpins ▸ hcancel)
    exact ⟨u, run_snoc ht hu, by rw [hub, hb]; rfl⟩
  case silent =>
    obtain ⟨t, ht, hb, hp⟩ := hbusy j hj
    have hrspv : t.rspv = decide (t.pace = 0#30) := congrArg Block.rspv hb
    exact ⟨t, ht, hp, by simp [hrspv, hp]⟩

/-- Settles O30: the acceptance edge of `STEP 0` is the whole command. -/
theorem pauseZero : Obligations.PauseZero := by
  intro s h
  obtain ⟨t, ht, hb, -⟩ := step_of_emits h
  have hp : t.pace = 0#30 := congrArg Block.pace hb
  refine ⟨t, ht, hb, ?_⟩
  rw [State.AcceptsWord, run_pins (run_one ht)]
  simp [hp]

/-! ### One mechanical step (rule R129) -/

/-- Settles O41: `LINE` moves from index `CUR - 1` to index `CUR` of the cycle. -/
theorem oneMechanicalStep : Obligations.OneMechanicalStep := by
  intro s p h hlast
  obtain ⟨t, ht, hb, -⟩ := step_of_emits h
  have hdir : t.dir = s.dir := congrArg Block.dir hb
  have hcur : t.cur = s.cur + 1#2 := congrArg Block.cur hb
  have hline : t.line = s.nextVector := congrArg Block.line hb
  have hxor : t.line ^^^ s.line = if (s.cur - 1#2).getLsbD 0 then 0xC#4 else 0x3#4 := by
    rw [hline, hlast, BitVec.xor_comm, ← memRead_xor_succ s.dir, BitVec.sub_add_cancel]
    rfl
  refine ⟨t, ht, hline, ?_, ?_⟩
  · rw [hline, State.lastVector, hdir, hcur, BitVec.add_sub_cancel]
    rfl
  · rw [hxor]
    split
    · exact .inr rfl
    · exact .inl rfl

/-! ### The `STEP` after a line fault (rule R190) -/

/-- A `STEP` that fails on a line leaves the block configured and idle, with the cursor one index further. -/
theorem step_of_lineFault {s : State} {p : Ticks} (ha : s.Accepts (.step p)) (hs : s.cfg = true)
    (he : s.pins.lineErr ≠ 0b0000#4) :
    ∃ t, step s = .next t ∧ t.cfg = true ∧ t.dir = s.dir ∧ t.cur = s.cur + 1#2 ∧ t.pace = 0#30 := by
  have e : step s = finishEdge (execStep p s) := step_command ha
  rw [execStep_lineFault p hs he, finishEdge_next] at e
  exact ⟨_, e, by simp [hs], by simp, by simp, by simp [ha.1.2.1]⟩

/-- Settles O42: the failed `STEP` leaves a configured, idle block one index further, where the second one emits. -/
theorem stepAfterLineFault : Obligations.StepAfterLineFault := by
  intro s p q ha hs he hr hv hd hok
  obtain ⟨t, ht, hcfg, hdir, hcur, hpace⟩ := step_of_lineFault ha hs he
  have hpins : t.pins = s.inputAt 1 := run_pins (run_one ht)
  rw [← hpins] at hr hv hd hok
  obtain ⟨u, hu, hb, -⟩ := step_of_emits ⟨⟨⟨hr, hpace, hv⟩, hd⟩, hcfg, hok⟩
  have huline : u.line = memRead (romAddress s.dir (s.cur + 1#2)) := by
    rw [← hdir, ← hcur]
    exact congrArg Block.line hb
  have hucur : u.cur = s.cur + 2#2 := by
    rw [show u.cur = t.cur + 1#2 from congrArg Block.cur hb, hcur, BitVec.add_assoc]
    rfl
  refine ⟨u, run_snoc (run_one ht) hu, huline, hucur, congrArg Block.pace hb, fun hlast => ?_⟩
  have hplace : s.cur + 1#2 = s.cur - 1#2 + 2#2 := by bv_omega
  rw [huline, hlast, hplace]
  exact memRead_xor_add_two s.dir (s.cur - 1#2)

/-! ### A change of direction (rule R145) -/

theorem step_releases {s : State} (ha : s.Accepts .release) (hs : s.cfg = true) :
    step s = .next ({ s.beginEdge with cfg := false }.respond .ok 0#2).nextEdge := by
  rw [step_command ha, exec, execRelease_releases hs, finishEdge_next]

/-- Settles O43: `RELEASE` leaves an unconfigured, idle block, where `CONFIG` constructs a fresh Stepper. -/
theorem releaseThenConfig : Obligations.ReleaseThenConfig := by
  intro s g ha hs hr hv hd hg
  have ht := step_releases ha hs
  set t := ({ s.beginEdge with cfg := false }.respond .ok 0#2).nextEdge
  have hpins : t.pins = s.inputAt 1 := run_pins (run_one ht)
  rw [← hpins] at hr hv hd
  have hu := step_constructs (s := t) ⟨⟨hr, ha.1.2.1, hv⟩, hd⟩ rfl hg
  exact ⟨_, run_snoc (run_one ht) hu, rfl⟩

end Sys2Proof.Machine
end

section
/-! Proofs of the family on the encoding and the host's assembler: written-out words, the rows of rules R88 and R89, seconds as
ticks, and the reading of a line's text. -/

namespace Sys2Proof.Machine

/-! ### Words -/

/-- Settles O1: ten fixed words. -/
theorem writtenWordsDecode : Obligations.WrittenWordsDecode := by
  unfold Obligations.WrittenWordsDecode
  decide

/-- The word of a tag: format C puts it in the lowest bits. -/
theorem encode_config_ofNat {t : Nat} (ht : t ≤ 3) : encode (.config (BitVec.ofNat 2 t)) = BitVec.ofNat 32 t := by
  interval_cases t <;> rfl

/-- The word of `STEP n`: the opcode or-ed with the count, which stays below the opcode's bits. -/
theorem encode_step_ofNat {n : Nat} (hn : n < 2 ^ 30) :
    encode (.step (BitVec.ofNat 30 n)) = 0x40000000#32 ||| BitVec.ofNat 32 n := by
  have hhigh : (BitVec.ofNat 32 n).extractLsb' 30 2 = 0b00#2 := by
    apply BitVec.eq_of_toNat_eq
    simp only [BitVec.extractLsb'_toNat, BitVec.toNat_ofNat, Nat.shiftRight_eq_div_pow]
    omega
  have hlow : (BitVec.ofNat 32 n).extractLsb' 0 30 = BitVec.ofNat 30 n := by
    apply BitVec.eq_of_toNat_eq
    simp
  apply eq_of_fields
  · rw [opField_encode_step, opField, BitVec.extractLsb'_or, hhigh]
    rfl
  · rw [argField_encode_step, argField, BitVec.extractLsb'_or, hlow, show (0x40000000#32).extractLsb' 0 30 = 0#30 from rfl,
      BitVec.zero_or]

/-- Settles O45: the ranges are those of the operand fields, and the words are the encoder's. -/
theorem assemblerRows : Obligations.AssemblerRows := by
  intro hz
  refine ⟨rfl, rfl, fun t => ?tag, fun n => ?step, rfl, fun _ => rfl⟩
  case tag =>
    by_cases ht : t ≤ 3
    · rw [if_pos ht, assemble, if_pos (by omega), encode_config_ofNat ht]
    · rw [if_neg ht, assemble, if_neg (by omega)]
  case step =>
    by_cases hn : n ≤ 1073741823
    · rw [if_pos hn, assemble, assembleStep, if_pos (by omega), encode_step_ofNat (by omega)]
    · rw [if_neg hn, assemble, assembleStep, if_neg (by omega)]

/-- Settles O46: the expansions are the assembler's own, and 10000 ticks are the default at 1 MHz. -/
theorem pseudoInstructions : Obligations.PseudoInstructions := by
  refine ⟨fun hz => ⟨rfl, rfl, fun _ => rfl⟩, ?_⟩
  decide

/-! ### Seconds as ticks (rule R90) -/

/-- The quotient of `SecToTicks` is the library's rounded-up division. -/
theorem secToTicks_eq_ceilDiv (hz : Nat) (x : Decimal) : secToTicks hz x = (x.digits * hz) ⌈/⌉ 10 ^ x.scale := by
  rw [secToTicks, Nat.ceilDiv_eq_add_pred_div, Nat.add_sub_assoc (Nat.one_le_pow _ _ (by decide))]

theorem secToTicks_le_iff (hz m : Nat) (x : Decimal) :
    secToTicks hz x ≤ m ↔ x.digits * hz ≤ m * 10 ^ x.scale := by
  rw [secToTicks_eq_ceilDiv, ceilDiv_le_iff_le_mul (by positivity), Nat.mul_comm m]

/-- Settles O47: rounding up is the least count above, by the adjunction of division and multiplication. -/
theorem secondsRoundUp : Obligations.SecondsRoundUp := by
  refine ⟨fun hz x => ⟨?_, fun m => (secToTicks_le_iff hz m x).2⟩, fun hz => ?_⟩
  · exact (secToTicks_le_iff hz _ x).1 le_rfl
  · simp [pauseDefaultTicks, secToTicks, defaultPause]

/-! ### The words the assembler writes -/

theorem exists_encode_of_assembleStep {n : Nat} {w : Word} (h : assembleStep n = some w) : ∃ i, w = encode i := by
  obtain ⟨-, hw⟩ := Option.ite_none_right_eq_some.1 h
  exact ⟨_, (Option.some.inj hw).symm⟩

theorem exists_encode_of_assemble {hz : Nat} {l : AsmLine} {w : Word} (h : assemble hz l = some w)
    (hl : ∀ n, l ≠ .word n) : ∃ i, w = encode i := by
  cases l with
  | config d => exact ⟨_, (Option.some.inj h).symm⟩
  | configTag t =>
    obtain ⟨-, hw⟩ := Option.ite_none_right_eq_some.1 h
    exact ⟨_, (Option.some.inj hw).symm⟩
  | configDefault => exact ⟨_, (Option.some.inj h).symm⟩
  | step n => exact exists_encode_of_assembleStep h
  | stepSeconds x => exact exists_encode_of_assembleStep h
  | stepDefault => exact exists_encode_of_assembleStep h
  | release => exact ⟨_, (Option.some.inj h).symm⟩
  | word n => exact absurd rfl (hl n)

/-- Settles O48: such a word is an encoding, and the decoder inverts the encoder. -/
theorem assemblerWritesCommands : Obligations.AssemblerWritesCommands := by
  intro hz l w h hl
  obtain ⟨i, rfl⟩ := exists_encode_of_assemble h hl
  exact ⟨i, rfl, decode_encode i⟩

/-! ### The text of a line (rule R88) -/

/-- `parseLine` reads no more of a text than its part before the comment, in lower case. -/
theorem parseLine_congr {a b : List Char} (h : (dropComment a).map lowerCase = (dropComment b).map lowerCase) :
    parseLine a = parseLine b := by
  rw [parseLine, parseLine, h]

theorem dropComment_append_comment (text comment : List Char) :
    dropComment (text ++ ';' :: comment) = dropComment text := by
  induction text with
  | nil => rfl
  | cons c rest ih =>
    simp only [dropComment] at ih
    by_cases hc : c = ';' <;> simp [dropComment, hc, ih]

/-- An upper-case letter goes to its lower-case letter, which is above all the others. -/
theorem toNat_lowerCase_of_upper {c : Char} (h : 'A' ≤ c ∧ c ≤ 'Z') : 97 ≤ (lowerCase c).toNat := by
  have hlow : 65 ≤ c.toNat := h.1
  have hhigh : c.toNat ≤ 90 := h.2
  rw [lowerCase, if_pos h, Char.toNat_ofNat, if_pos (.inl (by omega))]
  omega

theorem lowerCase_of_not_upper {c : Char} (h : ¬ ('A' ≤ c ∧ c ≤ 'Z')) : lowerCase c = c := if_neg h

theorem lowerCase_lowerCase (c : Char) : lowerCase (lowerCase c) = lowerCase c := by
  by_cases h : 'A' ≤ c ∧ c ≤ 'Z'
  · refine lowerCase_of_not_upper fun h' => ?_
    have hle : (lowerCase c).toNat ≤ 90 := h'.2
    have hge := toNat_lowerCase_of_upper h
    omega
  · rw [lowerCase_of_not_upper h, lowerCase_of_not_upper h]

/-- Lower case makes and removes no semicolon. -/
theorem lowerCase_eq_semicolon_iff (c : Char) : lowerCase c = ';' ↔ c = ';' := by
  by_cases h : 'A' ≤ c ∧ c ≤ 'Z'
  · have hge := toNat_lowerCase_of_upper h
    constructor
    · intro hc
      rw [hc] at hge
      exact absurd hge (by decide)
    · rintro rfl
      exact absurd h (by decide)
  · rw [lowerCase_of_not_upper h]

theorem dropComment_map_lowerCase (text : List Char) :
    dropComment (text.map lowerCase) = (dropComment text).map lowerCase := by
  rw [dropComment, dropComment, List.takeWhile_map]
  congr 2
  ext c
  rw [Bool.eq_iff_iff]
  simp [lowerCase_eq_semicolon_iff]

/-- Settles O49: neither changes the part that is read. -/
theorem commentAndCaseIgnored : Obligations.CommentAndCaseIgnored := by
  refine ⟨fun text comment => parseLine_congr ?comment, fun text => parseLine_congr ?case⟩
  case comment => rw [dropComment_append_comment]
  case case =>
    rw [dropComment_map_lowerCase, List.map_map]
    exact List.map_congr_left fun c _ => lowerCase_lowerCase c

end Sys2Proof.Machine
end
